-- ==== Sys2Proof/Word.lean ====
section
/-! DEFINITION. The word and byte types (spec 00_scope.md R11, R12): unsigned bit vectors, bit 0 the least significant. -/

namespace Sys2Proof

/-- A word of the core: 32 bits (R12). `+` on it is addition modulo 2^32, `^^^`, `&&&`, `|||`, `~~~` are bitwise. -/
abbrev Word := BitVec 32

/-- A byte. -/
abbrev Byte := BitVec 8

end Sys2Proof
end

