-- ==== Sys2Proof/Syntax.lean ====
section
/-! DEFINITION. The instructions: one constructor per row of spec/opcode_table.json. -/

namespace Sys2Proof

/-- The eight commands (30_encoding.md R122, R123) and the two host transactions (R128). A command carries no operand
(R126): its operands are fixed registers. -/
inductive Instr where
  /-- `TBLINIT`, build the combined table (R160). -/
  | tblinit
  /-- `EXPKEY`, the key schedule (R181). -/
  | expkey
  /-- `XFORM`, the block transform, round keys in forward order (R183). -/
  | xform
  /-- `XFORM.REV`, the block transform, round keys in reversed order (R183). -/
  | xformRev
  /-- `HINIT`, load the initial vector (R226). -/
  | hinit
  /-- `HCOMP`, compress one block (R227). -/
  | hcomp
  /-- `HCHUNK`, load one padded block (R218). -/
  | hchunk
  /-- `HDIGEST`, digest the whole message (R251). -/
  | hdigest
  /-- `RD32`, a host read at byte offset `off` of the window (R94). -/
  | rd32 (off : Nat)
  /-- `WR32`, a host write of `data` at byte offset `off` of the window (R95). -/
  | wr32 (off : Nat) (data : Word)
  deriving DecidableEq, Repr

/-- An encoded instruction, in one of the two formats of R120. -/
inductive Encoded where
  /-- Format CMD: the 32-bit command word of R121. -/
  | cmd (w : BitVec 32)
  /-- Format BUS: the 54-bit transaction record of R128. -/
  | bus (r : BitVec 54)
  deriving DecidableEq, Repr

end Sys2Proof
end

