-- ==== Sys2Proof/WellFormed.lean ====
section
/-! DEFINITION. Which instructions the encodings can hold. -/

namespace Sys2Proof

/-- The offset of a host transaction lies in the window, `0 <= off <= 0x1FFFFF` (20_memory.md R81; log 17). -/
def offsetInWindow (off : Nat) : Bool := off ≤ 0x1FFFFF

/-- An instruction is well formed when each of its fields fits its encoding. A command has no field (R126). -/
def Instr.wf : Instr → Bool
  | .tblinit => true
  | .expkey => true
  | .xform => true
  | .xformRev => true
  | .hinit => true
  | .hcomp => true
  | .hchunk => true
  | .hdigest => true
  | .rd32 off => offsetInWindow off
  | .wr32 off _ => offsetInWindow off

end Sys2Proof
end

