-- ==== Sys2Proof/Decode.lean ====
section
/-! DEFINITION. The decoder, total and rejecting by name, and the encoder (spec 30_encoding.md). -/

namespace Sys2Proof

/-- Why a word is no instruction (R125). -/
inductive Reject where
  /-- RSV, bits 31:9, is not 0. -/
  | reservedBits
  /-- REV = 1 with an OPC other than 0x03. -/
  | revOnNonXform
  /-- OPC 0x00 or 0x08 to 0xFF. -/
  | reservedOpcode
  deriving DecidableEq, Repr

/-- OPC, bits 7:0 of a command word (R121). -/
def opcField (p : Word) : BitVec 8 := p.extractLsb' 0 8

/-- REV, bit 8 of a command word (R121). -/
def revField (p : Word) : BitVec 1 := p.extractLsb' 8 1

/-- RSV, bits 31:9 of a command word (R121). -/
def rsvField (p : Word) : BitVec 23 := p.extractLsb' 9 23

/-- The opcode map of R122. -/
def commandOfOpcode (opc : BitVec 8) : Except Reject Instr :=
  match opc.toNat with
  | 0x01 => .ok .tblinit
  | 0x02 => .ok .expkey
  | 0x03 => .ok .xform
  | 0x04 => .ok .hinit
  | 0x05 => .ok .hcomp
  | 0x06 => .ok .hchunk
  | 0x07 => .ok .hdigest
  | _ => .error .reservedOpcode

/-- Decode of a command word (R124, R125): RSV must be 0; REV may be 1 only with OPC 0x03; then the opcode map. -/
def decodeCommand (p : Word) : Except Reject Instr :=
  if rsvField p ≠ 0 then .error .reservedBits
  else if revField p = 1 then
    if opcField p = 0x03 then .ok .xformRev else .error .revOnNonXform
  else commandOfOpcode (opcField p)

/-- Decode of a BUS record (R128): WE in bit 53, OFF in 52:32, DATA in 31:0. "RD32 matches WE = 0, and WR32 matches
WE = 1", so the decoder does not look at the DATA of an RD32 (DEDUCED, log 7). Every 54-bit record is a transaction. -/
def decodeRecord (r : BitVec 54) : Instr :=
  if r.extractLsb' 53 1 = 1 then .wr32 (r.extractLsb' 32 21).toNat (r.extractLsb' 0 32)
  else .rd32 (r.extractLsb' 32 21).toNat

/-- The decoder over both formats. -/
def decode : Encoded → Except Reject Instr
  | .cmd w => decodeCommand w
  | .bus r => .ok (decodeRecord r)

/-- The instruction the decoder reads from an instruction whose bits are `w`, numbered as spec/opcode_table.json numbers
them. A command word has 32 bits (R120) and a record 54 (R128), which is 7 whole bytes; the two bits above a record are 0.
Neither format has a byte order, because the core fetches nothing (20_memory.md R89, R100). -/
def decodeTableWord (nbits w : Nat) : Option Instr :=
  if nbits ≤ 32 then
    if w < 2 ^ 32 then (decodeCommand (BitVec.ofNat 32 w)).toOption else none
  else if w < 2 ^ 54 then some (decodeRecord (BitVec.ofNat 54 w)) else none

/-- A command word from its fields (R121), RSV = 0. -/
def commandWord (opc : BitVec 8) (rev : BitVec 1) : Word := (rev.setWidth 32 <<< 8) ||| opc.setWidth 32

/-- A BUS record from its fields, `WE<<53 | OFF<<32 | DATA` (R128; 95_test_vectors.md L3). An offset
above 0x1FFFFF, which no well-formed instruction has, keeps its low 21 bits (log 17). -/
def busRecord (we : BitVec 1) (off : Nat) (data : Word) : BitVec 54 :=
  (we.setWidth 54 <<< 53) ||| ((BitVec.ofNat 21 off).setWidth 54 <<< 32) ||| data.setWidth 54

/-- The encoder: the words of R123 and the records of R128. -/
def encode : Instr → Encoded
  | .tblinit => .cmd (commandWord 0x01 0)
  | .expkey => .cmd (commandWord 0x02 0)
  | .xform => .cmd (commandWord 0x03 0)
  | .xformRev => .cmd (commandWord 0x03 1)
  | .hinit => .cmd (commandWord 0x04 0)
  | .hcomp => .cmd (commandWord 0x05 0)
  | .hchunk => .cmd (commandWord 0x06 0)
  | .hdigest => .cmd (commandWord 0x07 0)
  | .rd32 off => .bus (busRecord 0 off 0)
  | .wr32 off data => .bus (busRecord 1 off data)

end Sys2Proof
end

