-- ==== Sys2Proof/Machine/Bits.lean ====
section
/-! DEFINITION. Rotation, byte lanes and big-endian conversion (spec 00_scope.md R12 to R14). -/

namespace Sys2Proof.Machine

/-- `Rotl(x, n)`, for n in 0..31: `(x << n) | (x >> (32 - n))` (R12). At n = 0 the right shift is by 32 and gives 0. -/
def rotl (x : Word) (n : Nat) : Word := (x <<< n) ||| (x >>> (32 - n))

/-- `byte_j(x) = x[8j+7 : 8j]`, j in 0..3 (R13). -/
def byteLane (j : Nat) (x : Word) : Byte := x.extractLsb' (8 * j) 8

/-- A byte placed in byte lane `j` of a word: `zext_32(b) << 8j` (R13). -/
def intoLane (j : Nat) (b : Byte) : Word := b.setWidth 32 <<< (8 * j)

/-- `be32(b0, b1, b2, b3)`: the first byte is the most significant (R14). -/
def be32 (b0 b1 b2 b3 : Byte) : Word := intoLane 3 b0 ||| intoLane 2 b1 ||| intoLane 1 b2 ||| intoLane 0 b3

/-- `bytes(w)` of one word: its four bytes, most significant first (R14). -/
def bytesOfWord (w : Word) : List Byte := [byteLane 3 w, byteLane 2 w, byteLane 1 w, byteLane 0 w]

/-- `bytes(w0, .., wn)`: the concatenation of each word's bytes (R14). -/
def bytesOfWords (ws : List Word) : List Byte := ws.flatMap bytesOfWord

/-- `words(s)`: the list of `be32(s[4k .. 4k+3])` (R14). It is used on lengths that are multiples of 4 only. -/
def wordsOfBytes : List Byte → List Word
  | b0 :: b1 :: b2 :: b3 :: rest => be32 b0 b1 b2 b3 :: wordsOfBytes rest
  | _ => []

/-- `be64(v)`: the 8 bytes of a 64-bit value, most significant first (R14). -/
def be64 (v : BitVec 64) : List Byte := (List.range 8).map fun k => v.extractLsb' (8 * (7 - k)) 8

/-- The register file of `n` words whose word `i` is item `i` of a list (0 beyond the list's end, which no use reaches). -/
def wordFile (n : Nat) (ws : List Word) : Vector Word n :=
  ⟨((List.range n).map fun i => ws.getD i 0).toArray, by simp⟩

end Sys2Proof.Machine
end

