-- ==== Sys2Proof/Machine/Primitives.lean ====
section
/-! DEFINITION. The cipher's shared functions: substitution, diffusion, constants and the combined table
(spec 40_primitives.md). The constant tables are those the spec's rules state
(PRESUMED by the spec itself, log 13). -/

namespace Sys2Proof.Machine

/-- The substitution box, row by row as R150 prints it. -/
def sboxRows : List (List Byte) :=
  [[0xd6, 0x90, 0xe9, 0xfe, 0xcc, 0xe1, 0x3d, 0xb7, 0x16, 0xb6, 0x14, 0xc2, 0x28, 0xfb, 0x2c, 0x05],
   [0x2b, 0x67, 0x9a, 0x76, 0x2a, 0xbe, 0x04, 0xc3, 0xaa, 0x44, 0x13, 0x26, 0x49, 0x86, 0x06, 0x99],
   [0x9c, 0x42, 0x50, 0xf4, 0x91, 0xef, 0x98, 0x7a, 0x33, 0x54, 0x0b, 0x43, 0xed, 0xcf, 0xac, 0x62],
   [0xe4, 0xb3, 0x1c, 0xa9, 0xc9, 0x08, 0xe8, 0x95, 0x80, 0xdf, 0x94, 0xfa, 0x75, 0x8f, 0x3f, 0xa6],
   [0x47, 0x07, 0xa7, 0xfc, 0xf3, 0x73, 0x17, 0xba, 0x83, 0x59, 0x3c, 0x19, 0xe6, 0x85, 0x4f, 0xa8],
   [0x68, 0x6b, 0x81, 0xb2, 0x71, 0x64, 0xda, 0x8b, 0xf8, 0xeb, 0x0f, 0x4b, 0x70, 0x56, 0x9d, 0x35],
   [0x1e, 0x24, 0x0e, 0x5e, 0x63, 0x58, 0xd1, 0xa2, 0x25, 0x22, 0x7c, 0x3b, 0x01, 0x21, 0x78, 0x87],
   [0xd4, 0x00, 0x46, 0x57, 0x9f, 0xd3, 0x27, 0x52, 0x4c, 0x36, 0x02, 0xe7, 0xa0, 0xc4, 0xc8, 0x9e],
   [0xea, 0xbf, 0x8a, 0xd2, 0x40, 0xc7, 0x38, 0xb5, 0xa3, 0xf7, 0xf2, 0xce, 0xf9, 0x61, 0x15, 0xa1],
   [0xe0, 0xae, 0x5d, 0xa4, 0x9b, 0x34, 0x1a, 0x55, 0xad, 0x93, 0x32, 0x30, 0xf5, 0x8c, 0xb1, 0xe3],
   [0x1d, 0xf6, 0xe2, 0x2e, 0x82, 0x66, 0xca, 0x60, 0xc0, 0x29, 0x23, 0xab, 0x0d, 0x53, 0x4e, 0x6f],
   [0xd5, 0xdb, 0x37, 0x45, 0xde, 0xfd, 0x8e, 0x2f, 0x03, 0xff, 0x6a, 0x72, 0x6d, 0x6c, 0x5b, 0x51],
   [0x8d, 0x1b, 0xaf, 0x92, 0xbb, 0xdd, 0xbc, 0x7f, 0x11, 0xd9, 0x5c, 0x41, 0x1f, 0x10, 0x5a, 0xd8],
   [0x0a, 0xc1, 0x31, 0x88, 0xa5, 0xcd, 0x7b, 0xbd, 0x2d, 0x74, 0xd0, 0x12, 0xb8, 0xe5, 0xb4, 0xb0],
   [0x89, 0x69, 0x97, 0x4a, 0x0c, 0x96, 0x77, 0x7e, 0x65, 0xb9, 0xf1, 0x09, 0xc5, 0x6e, 0xc6, 0x84],
   [0x18, 0xf0, 0x7d, 0xec, 0x3a, 0xdc, 0x4d, 0x20, 0x79, 0xee, 0x5f, 0x3e, 0xd7, 0xcb, 0x39, 0x48]]

/-- `S(b)`: the entry at row b[7:4] and column b[3:0] (R150). -/
def sbox (b : Byte) : Byte := (sboxRows.getD (b.extractLsb' 4 4).toNat []).getD (b.extractLsb' 0 4).toNat 0

/-- The word substitution tau: S on each byte lane (R151). -/
def tau (x : Word) : Word :=
  intoLane 3 (sbox (byteLane 3 x)) ||| intoLane 2 (sbox (byteLane 2 x)) |||
    intoLane 1 (sbox (byteLane 1 x)) ||| intoLane 0 (sbox (byteLane 0 x))

/-- The block transform's diffusion L (R152). -/
def diffuse (x : Word) : Word := x ^^^ rotl x 2 ^^^ rotl x 10 ^^^ rotl x 18 ^^^ rotl x 24

/-- The key schedule's diffusion Lk (R153). -/
def diffuseKey (x : Word) : Word := x ^^^ rotl x 13 ^^^ rotl x 23

/-- `T(x) = L(tau(x))`, the block transform's round function (R155). -/
def roundT (x : Word) : Word := diffuse (tau x)

/-- `Tk(x) = Lk(tau(x))`, the key schedule's round function (R155). -/
def roundTk (x : Word) : Word := diffuseKey (tau x)

/-- The system constants FK_0..FK_3 (R156). -/
def systemConstants : List Word := [0xa3b1bac6, 0x56aa3350, 0x677d9197, 0xb27022dc]

/-- The round constants CK_0..CK_31 (R157). -/
def roundConstants : List Word :=
  [0x00070e15, 0x1c232a31, 0x383f464d, 0x545b6269, 0x70777e85, 0x8c939aa1, 0xa8afb6bd, 0xc4cbd2d9] ++
  [0xe0e7eef5, 0xfc030a11, 0x181f262d, 0x343b4249, 0x50575e65, 0x6c737a81, 0x888f969d, 0xa4abb2b9] ++
  [0xc0c7ced5, 0xdce3eaf1, 0xf8ff060d, 0x141b2229, 0x30373e45, 0x4c535a61, 0x686f767d, 0x848b9299] ++
  [0xa0a7aeb5, 0xbcc3cad1, 0xd8dfe6ed, 0xf4fb0209, 0x10171e25, 0x2c333a41, 0x484f565d, 0x646b7279]

/-- A table store: Tbl[i][b], i in 0..3, b in 0..255 (10_state.md R52). -/
abbrev TableStore := Vector (Vector Word 256) 4

/-- One array of the combined table: entry b of array i is `L(zext_32(S(b)) << 8i)` (R158). -/
def combinedColumn (i : Nat) : Vector Word 256 :=
  wordFile 256 ((List.range 256).map fun b => diffuse (intoLane i (sbox (BitVec.ofNat 8 b))))

/-- The combined table (R158, R160). -/
def combinedTable : TableStore := #v[combinedColumn 0, combinedColumn 1, combinedColumn 2, combinedColumn 3]

/-- The table-lookup round function F (R159), over the content of a table store. -/
def lookupF (tbl : TableStore) (x : Word) : Word :=
  tbl[0][(byteLane 0 x).toNat]'(byteLane 0 x).isLt ^^^ tbl[1][(byteLane 1 x).toNat]'(byteLane 1 x).isLt ^^^
    tbl[2][(byteLane 2 x).toNat]'(byteLane 2 x).isLt ^^^ tbl[3][(byteLane 3 x).toNat]'(byteLane 3 x).isLt

end Sys2Proof.Machine
end

