-- ==== Sys2Proof/Machine/CipherFn.lean ====
section
/-! DEFINITION. The key schedule and the block transform as functions of words (spec 41_cipher.md R180, R182). -/

namespace Sys2Proof.Machine

/-- Four successive words of a 32-round recurrence: k[i..i+3] of the key schedule (10_state.md R49), X[i..i+3] of the
block transform (R48). -/
structure Window where
  w0 : Word
  w1 : Word
  w2 : Word
  w3 : Word
  deriving DecidableEq, Repr

/-- The window moved on by one word. -/
def Window.push (k : Window) (next : Word) : Window := ⟨k.w1, k.w2, k.w3, next⟩

/-- The first window of the key schedule: k[j] = K_j ^ FK_j (R180). -/
def keySeed (key : Vector Word 4) : Window :=
  ⟨key[0] ^^^ systemConstants.getD 0 0, key[1] ^^^ systemConstants.getD 1 0,
   key[2] ^^^ systemConstants.getD 2 0, key[3] ^^^ systemConstants.getD 3 0⟩

/-- One word of the key schedule: k[i+4] = k[i] ^ Tk(k[i+1] ^ k[i+2] ^ k[i+3] ^ CK_i) (R180). -/
def keyWord (k : Window) (ck : Word) : Word := k.w0 ^^^ roundTk (k.w1 ^^^ k.w2 ^^^ k.w3 ^^^ ck)

/-- The round keys from a window on, one per round constant. -/
def keyWords : Window → List Word → List Word
  | _, [] => []
  | k, ck :: cks => keyWord k ck :: keyWords (k.push (keyWord k ck)) cks

/-- `ExpandKeyFn` (R180): the 32 round keys of four key words. -/
def expandKeyFn (key : Vector Word 4) : Vector Word 32 := wordFile 32 (keyWords (keySeed key) roundConstants)

/-- One round of the block transform: X[i+4] = X[i] ^ F(X[i+1] ^ X[i+2] ^ X[i+3] ^ r_i) (R182). -/
def transformRound (F : Word → Word) (x : Window) (r : Word) : Window :=
  x.push (x.w0 ^^^ F (x.w1 ^^^ x.w2 ^^^ x.w3 ^^^ r))

/-- The output reversal: (Y_0, Y_1, Y_2, Y_3) = (X[35], X[34], X[33], X[32]) (R182). -/
def reversedWords (x : Window) : Vector Word 4 := #v[x.w3, x.w2, x.w1, x.w0]

/-- `TransformFn` (R182): the round function F, the block words, and the round keys in the order of use. -/
def transformFn (F : Word → Word) (block : Vector Word 4) (r : List Word) : Vector Word 4 :=
  reversedWords (r.foldl (transformRound F) ⟨block[0], block[1], block[2], block[3]⟩)

end Sys2Proof.Machine
end

