-- ==== Sys2Proof/Machine/HashFn.lean ====
section
/-! DEFINITION. Padding, chunking, expansion, compression and digest as functions of bytes and words
(spec 42_hash.md, 43_orchestrator.md R250). -/

namespace Sys2Proof.Machine

/-- The block count `NBLK(L) = ((L + 8) div 64) + 1` (R213). -/
def blockCount (L : Nat) : Nat := (L + 8) / 64 + 1

/-- The number of zero bytes of the padding, `z = (55 - L) mod 64` on integers (R210). -/
def padZeros (L : Nat) : Nat := ((55 - (L : Int)) % 64).toNat

/-- `PadFn(M) = M || 0x80 || 0x00 * z || be64(8*L)` (R210; a length past 2^64 bits is unreachable, log 19). -/
def padFn (M : List Byte) : List Byte :=
  M ++ [0x80] ++ List.replicate (padZeros M.length) 0 ++ be64 (BitVec.ofNat 64 (8 * M.length))

/-- Byte p of the padded message, by cases (R212), with Lp = 64 * NBLK(L) (R211). -/
def padByte (M : List Byte) (p : Nat) : Byte :=
  let lp := 64 * blockCount M.length
  if p < M.length then M.getD p 0
  else if p = M.length then 0x80
  else if p < lp - 8 then 0
  else (be64 (BitVec.ofNat 64 (8 * M.length))).getD (p - (lp - 8)) 0

/-- `Chunk(M, n)`: the 64 bytes PadByte(M, 64n) .. PadByte(M, 64n + 63) (R214). -/
def chunk (M : List Byte) (n : Nat) : List Byte := (List.range 64).map fun k => padByte M (64 * n + k)

/-- `Chunk(M, n)` as the 16 words of a block buffer, big-endian (R218, 10_state.md R47). -/
def chunkWords (M : List Byte) (n : Nat) : Vector Word 16 := wordFile 16 (wordsOfBytes (chunk M n))

/-- The initial vector IV_0..IV_7 (R219; log 13). -/
def initialVector : Vector Word 8 :=
  #v[0x7380166f, 0x4914b2b9, 0x172442d7, 0xda8a0600, 0xa96f30bc, 0x163138aa, 0xe38dee4d, 0xb0fb0e4e]

/-- The round constant T_i (R220). -/
def hashConstant (i : Nat) : Word := if i ≤ 15 then 0x79cc4519 else 0x7a879d8a

/-- The permutation P0 (R221). -/
def permP0 (x : Word) : Word := x ^^^ rotl x 9 ^^^ rotl x 17

/-- The permutation P1 (R221). -/
def permP1 (x : Word) : Word := x ^^^ rotl x 15 ^^^ rotl x 23

/-- The boolean function FF of round i (R222). -/
def boolFF (x y z : Word) (i : Nat) : Word :=
  if i < 16 then x ^^^ y ^^^ z else (x &&& y) ||| (x &&& z) ||| (y &&& z)

/-- The boolean function GG of round i (R222). -/
def boolGG (x y z : Word) (i : Nat) : Word :=
  if i < 16 then x ^^^ y ^^^ z else (x &&& y) ||| (~~~x &&& z)

/-- W[i] from the words before it (R223), for 16 <= i. -/
def expandedWord (W : List Word) (i : Nat) : Word :=
  permP1 (W.getD (i - 16) 0 ^^^ W.getD (i - 9) 0 ^^^ rotl (W.getD (i - 3) 0) 15) ^^^
    rotl (W.getD (i - 13) 0) 7 ^^^ W.getD (i - 6) 0

/-- The words W[0..67] (R223): the block's 16 words, then i = 16..67. -/
def expandW (block : Vector Word 16) : List Word :=
  (List.range' 16 52).foldl (fun W i => W ++ [expandedWord W i]) block.toList

/-- W1[i] = W[i] ^ W[i+4] (R223), for i in 0..63. -/
def expandW1 (W : List Word) (i : Nat) : Word := W.getD i 0 ^^^ W.getD (i + 4) 0

/-- The compression's working registers A..H (10_state.md R51). -/
structure HashRegs where
  a : Word
  b : Word
  c : Word
  d : Word
  e : Word
  f : Word
  g : Word
  h : Word
  deriving DecidableEq, Repr

/-- SS1 of round i (R224). -/
def roundSS1 (r : HashRegs) (i : Nat) : Word := rotl (rotl r.a 12 + r.e + rotl (hashConstant i) (i % 32)) 7

/-- SS2 of round i (R224). -/
def roundSS2 (r : HashRegs) (i : Nat) : Word := roundSS1 r i ^^^ rotl r.a 12

/-- TT1 of round i (R224). -/
def roundTT1 (W : List Word) (r : HashRegs) (i : Nat) : Word :=
  boolFF r.a r.b r.c i + r.d + roundSS2 r i + expandW1 W i

/-- TT2 of round i (R224). -/
def roundTT2 (W : List Word) (r : HashRegs) (i : Nat) : Word :=
  boolGG r.e r.f r.g i + r.h + roundSS1 r i + W.getD i 0

/-- One round (R224). Both shifts read the registers from before the round; F takes the old E (90_conflicts.md C1). -/
def compressRound (W : List Word) (r : HashRegs) (i : Nat) : HashRegs where
  d := r.c
  c := rotl r.b 9
  b := r.a
  a := roundTT1 W r i
  h := r.g
  g := rotl r.f 19
  f := r.e
  e := permP0 (roundTT2 W r i)

/-- The working registers loaded from a state V_0..V_7 (R224). -/
def loadRegs (v : Vector Word 8) : HashRegs := ⟨v[0], v[1], v[2], v[3], v[4], v[5], v[6], v[7]⟩

/-- The 64 rounds (R224). -/
def compressRounds (v : Vector Word 8) (block : Vector Word 16) : HashRegs :=
  (List.range 64).foldl (compressRound (expandW block)) (loadRegs v)

/-- The last step: the old state XOR the working registers, element by element (R224). -/
def xorRegs (v : Vector Word 8) (r : HashRegs) : Vector Word 8 :=
  #v[v[0] ^^^ r.a, v[1] ^^^ r.b, v[2] ^^^ r.c, v[3] ^^^ r.d, v[4] ^^^ r.e, v[5] ^^^ r.f, v[6] ^^^ r.g, v[7] ^^^ r.h]

/-- `CompressFn` (R224). -/
def compressFn (v : Vector Word 8) (block : Vector Word 16) : Vector Word 8 := xorRegs v (compressRounds v block)

/-- The state after the first `n` blocks of a message, from a state v, block 0 first (R250, R252). -/
def compressBlocks (M : List Byte) (v : Vector Word 8) (n : Nat) : Vector Word 8 :=
  (List.range n).foldl (fun v k => compressFn v (chunkWords M k)) v

/-- The final state of `DigestFn(M)` (R250). -/
def digestState (M : List Byte) : Vector Word 8 := compressBlocks M initialVector (blockCount M.length)

/-- `DigestFn(M)`: the 32 bytes of the final state, big-endian per word (R250, R254). -/
def digestFn (M : List Byte) : List Byte := bytesOfWords (digestState M).toList

end Sys2Proof.Machine
end

