-- ==== Sys2Proof/Config.lean ====
section
/-! DEFINITION. What an implementation fixes (spec 00_scope.md R10) and the free values the spec leaves open. -/

namespace Sys2Proof

/-- The hardware parameters of R10 that an instance sees: where its window lies and how large its message memory is.
They are constants of a run. State holds them, so that a statement about every state holds for every legal value. -/
structure Config.Params where
  /-- `BASE`, the byte address of the window on the host bus (R10, R80). -/
  base : Nat
  /-- `MSG_BYTES`, the capacity of MSGMEM in bytes (R10, R86), read in MSGCAP (R41). -/
  msgBytes : Nat
  deriving DecidableEq, Repr

/-- The size of the window: 2 MiB (R80). -/
def Config.windowBytes : Nat := 0x200000

/-- The legal parameters of R10: BASE aligned to 2 MiB; MSG_BYTES a multiple of 4 with 4 <= MSG_BYTES <= 0x100000. -/
abbrev Config.Params.wf (p : Config.Params) : Prop :=
  p.base % Config.windowBytes = 0 ∧ p.msgBytes % 4 = 0 ∧ 4 ≤ p.msgBytes ∧ p.msgBytes ≤ 0x100000

/-- The parameters of the state after reset. DESIGN CHOICE (log 1, unsafe): R10 leaves both OPEN; MSG_BYTES is the value
the spec's own vectors use (95_test_vectors.md L2.6, L3), BASE is 0. -/
def Config.platform : Config.Params where
  base := 0
  msgBytes := 0x1000

/-- The free value of a MSGMEM byte that the host has not written since the last reset (R60, R86, R316: unspecified).
DESIGN CHOICE (log 2): its arguments are the instance's BASE, the number of resets so far and the byte's index. Between two
resets the same byte reads the same (R93). Instances at different BASE addresses, which is what tells instances apart
(60_exceptions.md R286), have values that nothing relates; two states with equal arguments are made to agree. Nothing else
is known of it. -/
opaque Config.unwrittenByte : Nat → Nat → Nat → Byte

end Sys2Proof
end

