-- ==== Sys2Proof/Machine/State.lean ====
section
/-! DEFINITION. The state of one instance (spec 10_state.md R30), the events that move it, the reasons a step stops,
and the state after reset (R60). -/

namespace Sys2Proof.Machine

/-- The result codes of STATUS.ERRCODE that the core reports (60_exceptions.md R270). Codes 5 to 15 are reserved and
never reported, so they have no name here (log 12). -/
inductive ErrCode where
  /-- 0: completed without error. -/
  | none
  /-- 1: KEYLEN != 16, BLKLEN != 16 or MBLEN != 64. -/
  | invalidLength
  /-- 2: a word that is not legal. -/
  | illegalCommand
  /-- 3: MSGLEN > MSG_BYTES. -/
  | msgTooLong
  /-- 4: CHUNKIDX >= NBLK(MSGLEN). -/
  | chunkRange
  deriving DecidableEq, Repr

/-- The kinds of bus error (00_scope.md R15 `raise BusError(info)`). -/
inductive BusError where
  /-- `off mod 4 != 0` (20_memory.md R91). -/
  | misaligned
  /-- An access of a width other than 32 bits (20_memory.md R91). -/
  | width
  /-- A reserved offset (20_memory.md R83). -/
  | unmapped
  /-- A write to DOUT, NBLK, MSGCAP or the table window (20_memory.md R92). -/
  | readOnly
  /-- A read of the table window while TBL_VALID = 0 (20_memory.md R85). -/
  | tableNotBuilt
  /-- A host access while reset is asserted (70_reset_and_hazards.md R301). -/
  | inReset
  deriving DecidableEq, Repr

/-- Why a step stops. -/
inductive Fault where
  /-- A bus error of the host's access, raised by RD32, WR32 and the bus port. "A model treats a bus error as a fault of
  the host program" (60_exceptions.md R276). Safe: the core's state does not change there, and the model goes no
  further (log 5). -/
  | busError (info : BusError)
  deriving DecidableEq, Repr

/-- Why a step has no meaning. -/
inductive Refusal where
  /-- An instruction the model gives no meaning; raised by nothing, since every instruction has its meaning. Safe. -/
  | notModelled (mnemonic : String)
  deriving DecidableEq, Repr

/-- One event of the instance's total order (20_memory.md R96): what the outside world does to it, or the engine's turn.
The list of them in State is the model's own (log 4). -/
inductive Input where
  /-- One host transaction, a 32-bit access in the instance's window, as its BUS record (30_encoding.md R128). -/
  | record (r : BitVec 54)
  /-- One access on the host bus by its byte address and width in bytes, before the window is decoded
  (20_memory.md R81, R91; log 16). -/
  | access (addr : Nat) (bytes : Nat) (write : Bool) (data : Word)
  /-- The engine's turn: it completes the command in flight, if there is one (10_state.md R55). -/
  | engine
  /-- The reset line is driven: true asserts it, false releases it (70_reset_and_hazards.md R300). -/
  | reset (asserted : Bool)
  deriving DecidableEq, Repr

/-- The written bytes of MSGMEM (20_memory.md R86), by byte index, in canonical form: indexes strictly rising. An index
that is not listed has not been written since reset and holds no value of the model's (log 2). -/
abbrev Memory := List Host.Cell

/-- The state of one instance (10_state.md R30). -/
structure State where
  /-- CMD_LAST, what a read of CMD returns (R32). -/
  cmdLast : Word
  /-- PENDING, the command word in flight, or none (R58). -/
  pending : Option Word
  /-- STATUS.BUSY (R33). -/
  busy : Bool
  /-- STATUS.DONE (R33). -/
  done : Bool
  /-- STATUS.ERRCODE (R33). -/
  errcode : ErrCode
  /-- STATUS.TBL_VALID (R53). -/
  tblValid : Bool
  /-- STATUS.HZ (R33). -/
  hz : Bool
  /-- CTRL.IE (R34). -/
  ie : Bool
  /-- KEYLEN (R35). -/
  keylen : Word
  /-- BLKLEN (R36). -/
  blklen : Word
  /-- MBLEN (R37). -/
  mblen : Word
  /-- MSGLEN (R38). -/
  msglen : Word
  /-- CHUNKIDX (R39). -/
  chunkidx : Word
  /-- KEY_0..KEY_3 (R42). -/
  key : Vector Word 4
  /-- DIN_0..DIN_3 (R43). -/
  din : Vector Word 4
  /-- DOUT_0..DOUT_3 (R44). -/
  dout : Vector Word 4
  /-- RK_0..RK_31 (R45). -/
  rk : Vector Word 32
  /-- STATE_0..STATE_7 (R46). -/
  hstate : Vector Word 8
  /-- MB_0..MB_15 (R47). -/
  mb : Vector Word 16
  /-- The table store Tbl (R52). -/
  tbl : TableStore
  /-- MSGMEM (20_memory.md R86): its written bytes. -/
  msgmem : Memory
  /-- The parameters BASE and MSG_BYTES (00_scope.md R10), constant in a run; MSG_BYTES is what MSGCAP reads (R41). -/
  params : Config.Params
  /-- The level of the reset input (70_reset_and_hazards.md R300): the model's own field (log 9). -/
  resetLine : Bool
  /-- The events to come, oldest first: the model's own field (log 4). -/
  inputs : List Input
  /-- The word the last RD32 returned to the host (30_encoding.md R128 "the read value is returned separately"): the
  model's own field (log 6). -/
  rdata : Option Word
  /-- The number of resets so far, an argument of the free values of unwritten bytes: the model's own field (log 2). -/
  resets : Nat
  deriving DecidableEq, Repr

/-- The state R60 gives after reset, with no event to come and the reset line released. Tbl and MSGMEM are unspecified
there: MSGMEM has no written byte (log 2), and the table store is zero, which nothing reads while TBL_VALID = 0
(DESIGN CHOICE, log 3). -/
def State.resetWith (p : Config.Params) (resets : Nat) : State where
  cmdLast := 0
  pending := none
  busy := false
  done := false
  errcode := .none
  tblValid := false
  hz := false
  ie := false
  keylen := 0
  blklen := 0
  mblen := 0
  msglen := 0
  chunkidx := 0
  key := Vector.replicate 4 0
  din := Vector.replicate 4 0
  dout := Vector.replicate 4 0
  rk := Vector.replicate 32 0
  hstate := Vector.replicate 8 0
  mb := Vector.replicate 16 0
  tbl := Vector.replicate 4 (Vector.replicate 256 0)
  msgmem := []
  params := p
  resetLine := false
  inputs := []
  rdata := none
  resets := resets

/-- The machine right after reset (R60, R302), with the parameters of Config.platform (log 1). -/
def State.reset : State := State.resetWith Config.platform 0

end Sys2Proof.Machine
end

