-- ==== Sys2Proof/Machine/Operands.lean ====
section
/-! DEFINITION. Where a host access goes (spec 20_memory.md R81 to R87), and the operand forms of the commands
(30_encoding.md R126, R127). -/

namespace Sys2Proof.Machine

/-- A location of the window (R82, R85, R86). -/
inductive Loc where
  | cmd
  | status
  | ctrl
  | keylen
  | blklen
  | mblen
  | msglen
  | chunkidx
  | nblk
  | msgcap
  | key (j : Fin 4)
  | din (j : Fin 4)
  | dout (j : Fin 4)
  | rk (i : Fin 32)
  | state (j : Fin 8)
  | mb (j : Fin 16)
  | tbl (i : Fin 4) (b : Fin 256)
  /-- The MSGMEM word whose first byte has index `a`. -/
  | msg (a : Nat)
  deriving DecidableEq, Repr

/-- The byte offset of a location (R82, R85, R86). -/
def Loc.offset : Loc → Nat
  | .cmd => 0x000
  | .status => 0x004
  | .ctrl => 0x008
  | .keylen => 0x00C
  | .blklen => 0x010
  | .mblen => 0x014
  | .msglen => 0x018
  | .chunkidx => 0x01C
  | .nblk => 0x020
  | .msgcap => 0x024
  | .key j => 0x040 + 4 * j
  | .din j => 0x050 + 4 * j
  | .dout j => 0x060 + 4 * j
  | .rk i => 0x080 + 4 * i
  | .state j => 0x100 + 4 * j
  | .mb j => 0x140 + 4 * j
  | .tbl i b => 0x1000 + 0x400 * i + 4 * b
  | .msg a => 0x100000 + a

/-- The location at an aligned register offset 0x000 to 0x03C (R82); 0x028 to 0x03C are reserved (R83). -/
def controlLoc (off : Nat) : Option Loc :=
  match off with
  | 0x000 => some .cmd
  | 0x004 => some .status
  | 0x008 => some .ctrl
  | 0x00C => some .keylen
  | 0x010 => some .blklen
  | 0x014 => some .mblen
  | 0x018 => some .msglen
  | 0x01C => some .chunkidx
  | 0x020 => some .nblk
  | 0x024 => some .msgcap
  | _ => none

/-- The location at an aligned offset, or none where the offset is reserved (R82 to R87). A MSGMEM word is there when all
its bytes are, `a + 3 < MSG_BYTES` (R87). -/
def locOf (msgBytes off : Nat) : Option Loc :=
  if off < 0x040 then controlLoc off
  else if off < 0x050 then some (.key (Fin.ofNat 4 ((off - 0x040) / 4)))
  else if off < 0x060 then some (.din (Fin.ofNat 4 ((off - 0x050) / 4)))
  else if off < 0x070 then some (.dout (Fin.ofNat 4 ((off - 0x060) / 4)))
  else if off < 0x080 then none
  else if off < 0x100 then some (.rk (Fin.ofNat 32 ((off - 0x080) / 4)))
  else if off < 0x120 then some (.state (Fin.ofNat 8 ((off - 0x100) / 4)))
  else if off < 0x140 then none
  else if off < 0x180 then some (.mb (Fin.ofNat 16 ((off - 0x140) / 4)))
  else if off < 0x1000 then none
  else if off < 0x2000 then some (.tbl (Fin.ofNat 4 ((off - 0x1000) / 0x400)) (Fin.ofNat 256 ((off - 0x1000) / 4)))
  else if off < 0x100000 then none
  else if off < Config.windowBytes ∧ off - 0x100000 + 3 < msgBytes then some (.msg (off - 0x100000))
  else none

/-- The location a host access names, or its bus error; misalignment is checked first (R94, R95). -/
def locate (msgBytes off : Nat) : Except BusError Loc :=
  if off % 4 ≠ 0 then .error .misaligned
  else match locOf msgBytes off with
    | some l => .ok l
    | none => .error .unmapped

/-- The read-only locations (R92): DOUT_0..3, NBLK, MSGCAP and the table window. -/
def Loc.readOnly : Loc → Bool
  | .dout _ => true
  | .nblk => true
  | .msgcap => true
  | .tbl _ _ => true
  | _ => false

/-- The offset in the window of an address on the host bus, or none outside the window, where the access is "not addressed
to the instance" (R81). -/
def windowOffset (base addr : Nat) : Option Nat :=
  if base ≤ addr ∧ addr < base + Config.windowBytes then some (addr - base) else none

/-- A declared length against the length an operation takes: "as a whole 32-bit unsigned number" (R127). -/
def requireLength (declared required : Word) : Except ErrCode Unit :=
  if declared = required then .ok () else .error .invalidLength

/-- The round keys in their order of use: RK_i in round i for REV = 0, RK_(31-i) for REV = 1 (41_cipher.md R183). -/
def roundKeys (rev : Bool) (rk : Vector Word 32) : List Word := if rev then rk.toList.reverse else rk.toList

/-- The value of NBLK for a MSGLEN (10_state.md R40), on unbounded integers. -/
def nblkOf (msglen : Word) : Nat := blockCount msglen.toNat

/-- The value of the byte of MSGMEM at index `a`, if it has been written since reset. -/
def Memory.read? : Memory → Nat → Option Byte
  | [], _ => none
  | (k, v) :: rest, a => if k = a then some v else Memory.read? rest a

/-- `Mem[a]` (20_memory.md R86): the byte last written there, or the free value of a byte not written since reset
(R316), which is this instance's own by its BASE (DESIGN CHOICE, log 2). -/
def State.msgByte (s : State) (a : Nat) : Byte :=
  (Memory.read? s.msgmem a).getD (Config.unwrittenByte s.params.base s.resets a)

/-- `MemRead(a, n)` (00_scope.md R15). -/
def State.memRead (s : State) (a n : Nat) : List Byte := (List.range n).map fun k => s.msgByte (a + k)

/-- The word a read of MSGMEM at index `a` returns, `be32(MemRead(a, 4))` (20_memory.md R87). -/
def State.msgWord (s : State) (a : Nat) : Word :=
  be32 (s.msgByte a) (s.msgByte (a + 1)) (s.msgByte (a + 2)) (s.msgByte (a + 3))

/-- The message operand, `MSGMEM[0 .. MSGLEN-1]` (R126). -/
def State.message (s : State) : List Byte := s.memRead 0 s.msglen.toNat

end Sys2Proof.Machine
end

