-- ==== Sys2Proof/Machine/Flags.lean ====
section
/-! DEFINITION. The fields of STATUS and CTRL: how they read, and how a write to them acts (spec 10_state.md R33, R34, R56). -/

namespace Sys2Proof.Machine

/-- The number of a result code (60_exceptions.md R270). -/
def ErrCode.code : ErrCode → BitVec 4
  | .none => 0
  | .invalidLength => 1
  | .illegalCommand => 2
  | .msgTooLong => 3
  | .chunkRange => 4

/-- STATUS.ERR reads as (ERRCODE != 0) (R33). -/
def State.errFlag (s : State) : Bool := s.errcode.code ≠ 0

/-- The interrupt output, and STATUS.IRQ: `DONE & CTRL.IE` (R56). -/
def State.irq (s : State) : Bool := s.done && s.ie

/-- A bit as a word, in place `n`. -/
def bitAt (n : Nat) (b : Bool) : Word := (BitVec.ofBool b).setWidth 32 <<< n

/-- A read of STATUS (R33): BUSY 0, DONE 1, ERR 2, ERRCODE 7:4, TBL_VALID 8, HZ 9, IRQ 10, every other bit 0. -/
def State.statusWord (s : State) : Word :=
  bitAt 0 s.busy ||| bitAt 1 s.done ||| bitAt 2 s.errFlag ||| (s.errcode.code.setWidth 32 <<< 4) |||
    bitAt 8 s.tblValid ||| bitAt 9 s.hz ||| bitAt 10 s.irq

/-- A read of CTRL: IE in bit 0, every other bit 0 (R34). -/
def State.ctrlWord (s : State) : Word := bitAt 0 s.ie

/-- A write of v to STATUS (R33): a 1 in bit 1 clears DONE, a 1 in bit 9 clears HZ, nothing else changes. -/
def State.writeStatus (s : State) (v : Word) : State :=
  { s with done := s.done && !v.getLsbD 1, hz := s.hz && !v.getLsbD 9 }

/-- A write of v to CTRL (R34): IE takes bit 0, the other bits are ignored. -/
def State.writeCtrl (s : State) (v : Word) : State := { s with ie := v.getLsbD 0 }

end Sys2Proof.Machine
end

