-- ==== Sys2Proof/Machine/Ops.lean ====
section
/-! DEFINITION. The shared operations over registers and memory, acceptance, completion with and without an error, and
reset (spec 10_state.md, 20_memory.md, 60_exceptions.md, 70_reset_and_hazards.md). -/

namespace Sys2Proof.Machine

/-! ## Message memory -/

/-- A byte written at index `a`, indexes kept strictly rising. -/
def Memory.write : Memory → Nat → Byte → Memory
  | [], a, v => [(a, v)]
  | (k, w) :: rest, a, v =>
    if a < k then (a, v) :: (k, w) :: rest
    else if a = k then (a, v) :: rest
    else (k, w) :: Memory.write rest a v

/-- The indexes of a list of cells are strictly rising, all above a bound. -/
def Memory.risingFrom : Nat → Memory → Bool
  | _, [] => true
  | lo, (k, _) :: rest => decide (lo ≤ k) && Memory.risingFrom (k + 1) rest

/-- The canonical form: indexes strictly rising. An unlisted byte has no value, so no entry can equal it (log 2). -/
def Memory.wf (m : Memory) : Bool := Memory.risingFrom 0 m

/-- Bytes written at successive indexes from `a` on. -/
def Memory.writeBytes : Memory → Nat → List Byte → Memory
  | m, _, [] => m
  | m, a, v :: vs => Memory.writeBytes (Memory.write m a v) (a + 1) vs

/-- `MemWrite(a, 4, bytes(v))`: the word's most significant byte at the lowest index (20_memory.md R88). -/
def State.writeMsgWord (s : State) (a : Nat) (v : Word) : State :=
  { s with msgmem := Memory.writeBytes s.msgmem a (bytesOfWord v) }

/-! ## Acceptance and completion -/

/-- Acceptance of a command word (10_state.md R54). -/
def State.accept (s : State) (v : Word) : State :=
  { s with cmdLast := v, pending := some v, busy := true, done := false, errcode := .none }

/-- A completion without error (10_state.md R55): the command's writes, in the argument, take effect with the status. -/
def State.commit (s : State) : State :=
  { s with errcode := .none, busy := false, done := true, pending := none }

/-- A completion with an error (10_state.md R55, 60_exceptions.md R275), the core's one "trap entry" (R278): only STATUS
and PENDING change. There is no return from it (R279). -/
def State.raiseError (s : State) (code : ErrCode) : State :=
  { s with errcode := code, busy := false, done := true, pending := none }

/-- The completion step of a command whose pseudocode gave `result` on the state (10_state.md R55): all of its writes or
none of them. -/
def State.complete (s : State) (result : Except ErrCode State) : State :=
  match result with
  | .ok t => t.commit
  | .error code => s.raiseError code

/-- The engine's decode refuses the pending word: ILLEGAL_COMMAND, nothing else (60_exceptions.md R272). -/
def State.completeIllegal (s : State) : State := s.raiseError .illegalCommand

/-- The table store is built if it is not valid (41_cipher.md R183), as TBLINIT builds it (40_primitives.md R160). -/
def State.ensureTable (s : State) : State :=
  { s with tbl := if s.tblValid then s.tbl else combinedTable, tblValid := true }

/-! ## Host reads and writes of a location -/

/-- The word a read of a location returns (20_memory.md R94). -/
def State.readLoc (s : State) : Loc → Except BusError Word
  | .cmd => .ok s.cmdLast
  | .status => .ok s.statusWord
  | .ctrl => .ok s.ctrlWord
  | .keylen => .ok s.keylen
  | .blklen => .ok s.blklen
  | .mblen => .ok s.mblen
  | .msglen => .ok s.msglen
  | .chunkidx => .ok s.chunkidx
  | .nblk => .ok (BitVec.ofNat 32 (nblkOf s.msglen))
  | .msgcap => .ok (BitVec.ofNat 32 s.params.msgBytes)
  | .key j => .ok s.key[j]
  | .din j => .ok s.din[j]
  | .dout j => .ok s.dout[j]
  | .rk i => .ok s.rk[i]
  | .state j => .ok s.hstate[j]
  | .mb j => .ok s.mb[j]
  | .tbl i b => if s.tblValid then .ok s.tbl[i][b] else .error .tableNotBuilt
  | .msg a => .ok (s.msgWord a)

/-- A performed write of v to a location that is neither STATUS nor CTRL, while BUSY = 0 (20_memory.md R95). A read-only
location is kept: the bus error comes first (R92). -/
def State.storeLoc (s : State) (l : Loc) (v : Word) : State :=
  match l with
  | .cmd => s.accept v
  | .status => s.writeStatus v
  | .ctrl => s.writeCtrl v
  | .keylen => { s with keylen := v }
  | .blklen => { s with blklen := v }
  | .mblen => { s with mblen := v }
  | .msglen => { s with msglen := v }
  | .chunkidx => { s with chunkidx := v }
  | .nblk => s
  | .msgcap => s
  | .key j => { s with key := s.key.set j v }
  | .din j => { s with din := s.din.set j v }
  | .dout _ => s
  | .rk i => { s with rk := s.rk.set i v }
  | .state j => { s with hstate := s.hstate.set j v }
  | .mb j => { s with mb := s.mb.set j v }
  | .tbl _ _ => s
  | .msg a => s.writeMsgWord a v

/-- A dropped write: nothing but HZ (70_reset_and_hazards.md R310). -/
def State.dropWrite (s : State) : State := { s with hz := true }

/-- A host write of v to a location that is not read-only (20_memory.md R95): STATUS and CTRL always, any other location
only while BUSY = 0. -/
def State.writeLoc (s : State) (l : Loc) (v : Word) : State :=
  match l with
  | .status => s.writeStatus v
  | .ctrl => s.writeCtrl v
  | _ => if s.busy then s.dropWrite else s.storeLoc l v

/-! ## Reset -/

/-- The reset line is driven (70_reset_and_hazards.md R300, R301). Asserting it gives every item of state its reset value
and aborts the command in flight; MSGMEM is unspecified again, so the counter of resets goes on (log 2, log 9).
Releasing it changes nothing else. -/
def State.driveReset (s : State) (asserted : Bool) : State :=
  if asserted then { State.resetWith s.params (s.resets + 1) with inputs := s.inputs, resetLine := true }
  else { s with resetLine := false }

end Sys2Proof.Machine
end

