-- ==== Sys2Proof/Machine/Bus.lean ====
section
/-! DEFINITION. The host transactions RD32 and WR32 (spec 20_memory.md R94, R95). -/

namespace Sys2Proof.Machine

/-- What a read of the word at an offset gives: the word, or the bus error (R94). -/
def State.readAt (s : State) (off : Nat) : Except BusError Word := do
  s.readLoc (← locate s.params.msgBytes off)

/-- RD32 at an offset (R94): the word read is returned to the host, and nothing else changes (R93). -/
def execRd32 (off : Nat) (s : State) : Host.Outcome State Fault Refusal :=
  match s.readAt off with
  | .ok v => .next { s with rdata := some v }
  | .error e => .fault (.busError e)

/-- What a write at an offset leaves: the state, or the bus error (R95). The bus errors are checked before BUSY. -/
def State.writeAt (s : State) (off : Nat) (v : Word) : Except BusError State := do
  let l ← locate s.params.msgBytes off
  if l.readOnly then .error .readOnly else .ok (s.writeLoc l v)

/-- WR32 of v at an offset (R95). -/
def execWr32 (off : Nat) (v : Word) (s : State) : Host.Outcome State Fault Refusal :=
  match s.writeAt off v with
  | .ok t => .next t
  | .error e => .fault (.busError e)

end Sys2Proof.Machine
end

