-- ==== Sys2Proof/Machine/Cipher.lean ====
section
/-! DEFINITION. The cipher commands: TBLINIT, EXPKEY, XFORM and XFORM.REV (spec 40_primitives.md R160, 41_cipher.md).
A command's meaning is its completion step (00_scope.md R16). -/

namespace Sys2Proof.Machine

/-- TBLINIT (R160). -/
def execTblinit (s : State) : Host.Outcome State Fault Refusal :=
  .next (s.complete (.ok { s with tbl := combinedTable, tblValid := true }))

/-- The pseudocode of EXPKEY (R181). -/
def expkeyResult (s : State) : Except ErrCode State := do
  requireLength s.keylen 16
  return { s with rk := expandKeyFn s.key }

/-- EXPKEY (R181). -/
def execExpkey (s : State) : Host.Outcome State Fault Refusal := .next (s.complete (expkeyResult s))

/-- The result block of XFORM from the table store's content (R182, R183; DEDUCED, log 11). -/
def transformResult (rev : Bool) (s : State) : Vector Word 4 :=
  transformFn (lookupF s.tbl) s.din (roundKeys rev s.rk)

/-- The pseudocode of XFORM with its REV bit (R183): the length check, the lazy build, the transform. -/
def xformResult (rev : Bool) (s : State) : Except ErrCode State := do
  requireLength s.blklen 16
  return { s.ensureTable with dout := transformResult rev s.ensureTable }

/-- XFORM (R183), REV = 0. -/
def execXform (s : State) : Host.Outcome State Fault Refusal := .next (s.complete (xformResult false s))

/-- XFORM.REV (R183), REV = 1. -/
def execXformRev (s : State) : Host.Outcome State Fault Refusal := .next (s.complete (xformResult true s))

end Sys2Proof.Machine
end

