-- ==== Sys2Proof/Machine/Hash.lean ====
section
/-! DEFINITION. The hash commands: HINIT, HCOMP, HCHUNK and HDIGEST (spec 42_hash.md, 43_orchestrator.md).
A command's meaning is its completion step (00_scope.md R16). -/

namespace Sys2Proof.Machine

/-- HINIT (R226). -/
def execHinit (s : State) : Host.Outcome State Fault Refusal :=
  .next (s.complete (.ok { s with hstate := initialVector }))

/-- The pseudocode of HCOMP (R227). -/
def hcompResult (s : State) : Except ErrCode State := do
  requireLength s.mblen 64
  return { s with hstate := compressFn s.hstate s.mb }

/-- HCOMP (R227). -/
def execHcomp (s : State) : Host.Outcome State Fault Refusal := .next (s.complete (hcompResult s))

/-- The message must fit MSGMEM: MSG_TOO_LONG when MSGLEN > MSG_BYTES (R218, R251). -/
def requireFits (s : State) : Except ErrCode Unit :=
  if s.params.msgBytes < s.msglen.toNat then .error .msgTooLong else .ok ()

/-- The chunk must exist: CHUNK_RANGE when CHUNKIDX >= NBLK(MSGLEN) (R218). -/
def requireChunk (s : State) : Except ErrCode Unit :=
  if nblkOf s.msglen ≤ s.chunkidx.toNat then .error .chunkRange else .ok ()

/-- The pseudocode of HCHUNK (R218); MSG_TOO_LONG is checked first (60_exceptions.md R274). -/
def hchunkResult (s : State) : Except ErrCode State := do
  requireFits s
  requireChunk s
  return { s with mb := chunkWords s.message s.chunkidx.toNat, mblen := 64 }

/-- HCHUNK (R218). -/
def execHchunk (s : State) : Host.Outcome State Fault Refusal := .next (s.complete (hchunkResult s))

/-- The pseudocode of HDIGEST (R251). -/
def hdigestResult (s : State) : Except ErrCode State := do
  requireFits s
  return { s with hstate := digestState s.message }

/-- HDIGEST (R251). -/
def execHdigest (s : State) : Host.Outcome State Fault Refusal := .next (s.complete (hdigestResult s))

end Sys2Proof.Machine
end

