-- ==== Sys2Proof/Machine/Dispatch.lean ====
section
/-! DEFINITION. One meaning per instruction. -/

namespace Sys2Proof.Machine

def exec (i : Instr) (s : State) : Host.Outcome State Fault Refusal :=
  match i with
  | .tblinit => Sys2Proof.Machine.execTblinit s
  | .expkey => Sys2Proof.Machine.execExpkey s
  | .xform => Sys2Proof.Machine.execXform s
  | .xformRev => Sys2Proof.Machine.execXformRev s
  | .hinit => Sys2Proof.Machine.execHinit s
  | .hcomp => Sys2Proof.Machine.execHcomp s
  | .hchunk => Sys2Proof.Machine.execHchunk s
  | .hdigest => Sys2Proof.Machine.execHdigest s
  | .rd32 off => Sys2Proof.Machine.execRd32 off s
  | .wr32 off data => Sys2Proof.Machine.execWr32 off data s

end Sys2Proof.Machine
end

