-- ==== Sys2Proof/Machine/Agents.lean ====
section
/-! DEFINITION. The turns of the machine's agents (spec 00_scope.md R18): the engine, the host, and the reset line, and
how an instruction is placed where the next step takes it. -/

namespace Sys2Proof.Machine

/-- The engine completes a pending word (10_state.md R55): it decodes the word (30_encoding.md R124) and performs the
command, or reports ILLEGAL_COMMAND. -/
def completePending (s : State) (p : Word) : Host.Outcome State Fault Refusal :=
  match decodeCommand p with
  | .ok i => exec i s
  | .error _ => .next s.completeIllegal

/-- The engine's turn: with a command in flight and reset released it completes it; else it is idle and "keeps all its
state" (60_exceptions.md R288; R301; log 10). -/
def engineTurn (s : State) : Host.Outcome State Fault Refusal :=
  match s.resetLine, s.busy, s.pending with
  | false, true, some p => completePending s p
  | _, _, _ => .next s

/-- The host's turn with one transaction of the window: refused by the bus while reset is asserted
(70_reset_and_hazards.md R301), else performed. -/
def hostTurn (i : Instr) (s : State) : Host.Outcome State Fault Refusal :=
  if s.resetLine then .fault (.busError .inReset) else exec i s

/-- A host transaction by its parts. -/
def transaction (write : Bool) (off : Nat) (data : Word) : Instr := if write then .wr32 off data else .rd32 off

/-- An access on the host bus (20_memory.md R81, R91): outside the window it is not addressed to the instance, which
keeps its state; in the window only a 32-bit access is performed. -/
def busTurn (addr bytes : Nat) (write : Bool) (data : Word) (s : State) : Host.Outcome State Fault Refusal :=
  match windowOffset s.params.base addr with
  | none => .next s
  | some off =>
    if s.resetLine then .fault (.busError .inReset)
    else if bytes ≠ 4 then .fault (.busError .width)
    else hostTurn (transaction write off data) s

/-- The state with the oldest input taken off the list. -/
def State.popInput (s : State) : State := { s with inputs := s.inputs.tail }

/-- One event (20_memory.md R96), on the state with the event already taken off the list. -/
def turn (e : Input) (s : State) : Host.Outcome State Fault Refusal :=
  match e with
  | .record r => hostTurn (decodeRecord r) s
  | .access addr bytes write data => busTurn addr bytes write data s
  | .engine => engineTurn s
  | .reset asserted => .next (s.driveReset asserted)

/-- An instruction placed where the very next step takes it: a command word in PENDING with BUSY = 1 and the engine's turn
next (10_state.md R54, R55), a record as the next input. The reset line must be released for either to run. -/
def State.placeWord (s : State) (nbits w : Nat) : State :=
  if nbits ≤ 32 then
    { s with pending := some (BitVec.ofNat 32 w), busy := true, resetLine := false, inputs := .engine :: s.inputs }
  else { s with resetLine := false, inputs := .record (BitVec.ofNat 54 w) :: s.inputs }

end Sys2Proof.Machine
end

