-- ==== Sys2Proof/Machine/Step.lean ====
section
/-! DEFINITION. One step of the machine: one event of the instance's total order (spec 20_memory.md R96). -/

namespace Sys2Proof.Machine

/-- One step: the oldest input is the event; with no input left it is the engine's turn, so that every accepted command
completes (weak fairness, 70_reset_and_hazards.md R315; log 4). -/
def step (s : State) : Host.Outcome State Fault Refusal :=
  match s.inputs with
  | [] => engineTurn s
  | e :: _ => turn e s.popInput

/-- `s` with the instruction whose bits are `w` stored where the next step takes it (log 8). -/
def State.withFetchWord (s : State) (nbits w : Nat) : State := s.placeWord nbits w

end Sys2Proof.Machine
end

