-- ==== Sys2Proof/Machine/Assembler.lean ====
section
/-! DEFINITION. Host programs: the statements of the assembler and the expansions of the pseudo-instructions
(spec 30_encoding.md R128 to R130), as the inputs they give the instance. -/

namespace Sys2Proof.Machine

/-- A place a statement names (R129): a named location of the window, or a raw offset `@<off>`. -/
inductive Place where
  | named (l : Loc)
  | raw (off : Nat)
  deriving DecidableEq, Repr

/-- The offset a place stands for (R129): `MSG+<a>` and `TBL[<i>][<b>]` are locations. -/
def Place.offset : Place → Nat
  | .named l => l.offset
  | .raw off => off

/-- A statement (R129). -/
inductive Stmt where
  | rd (p : Place)
  | wr (p : Place) (v : Word)
  deriving DecidableEq, Repr

/-- The transaction of a statement. -/
def Stmt.instr : Stmt → Instr
  | .rd p => .rd32 p.offset
  | .wr p v => .wr32 p.offset v

/-- A place that R129 writes and OFF can hold: `MSG+<a>` has `a` a multiple of 4 (R129), and every offset lies in the window
(20_memory.md R81). R129 gives no range: a place past the window is no place (DESIGN CHOICE, log 20). -/
def Place.wf : Place → Bool
  | .named (.msg a) => a % 4 == 0 && offsetInWindow (Loc.msg a).offset
  | p => offsetInWindow p.offset

/-- The place of a statement. -/
def Stmt.place : Stmt → Place
  | .rd p => p
  | .wr p _ => p

/-- A statement the assembler accepts. -/
def Stmt.wf (st : Stmt) : Bool := st.place.wf

/-- The BUS record of a statement (R128), before its place is checked. -/
def Stmt.fields : Stmt → BitVec 54
  | .rd p => busRecord 0 p.offset 0
  | .wr p v => busRecord 1 p.offset v

/-- The BUS record of a statement (R128), or none for one the assembler does not accept: no offset is cut to 21 bits
(DESIGN CHOICE, log 20). -/
def Stmt.record (st : Stmt) : Option (BitVec 54) := if st.wf then some st.fields else none

/-- The host events of a statement: one transaction, or none where there is no record (log 20). -/
def Stmt.inputs (st : Stmt) : List Input := st.record.toList.map .record

/-- A pseudo-instruction (R130). A command is named by its word, legal or not, as `wr CMD` takes it (log 18). -/
inductive Pseudo where
  | cmd (word : Word)
  /-- `wait`: `polls` reads of STATUS before the completion, the engine's step, and the read that sees DONE. The number
  of polls depends on LATENCY (95_test_vectors.md L3; log 18). -/
  | wait (polls : Nat)
  | clr
  | clrhz
  | run (word : Word) (polls : Nat)
  | ldkey (k0 k1 k2 k3 : Word)
  | ldblk (d0 d1 d2 d3 : Word)
  deriving DecidableEq, Repr

/-- The events of `wr <location>, <value>`. -/
def wrInputs (l : Loc) (v : Word) : List Input := (Stmt.wr (.named l) v).inputs

/-- The events of `rd <location>`. -/
def rdInputs (l : Loc) : List Input := (Stmt.rd (.named l)).inputs

/-- The polling loop of `wait` with the completion in its place (R130). -/
def waitInputs (polls : Nat) : List Input :=
  (List.replicate polls (rdInputs .status)).flatten ++ [.engine] ++ rdInputs .status

/-- The expansion of a pseudo-instruction (R130). -/
def Pseudo.inputs : Pseudo → List Input
  | .cmd w => wrInputs .cmd w
  | .wait polls => waitInputs polls
  | .clr => wrInputs .status 0x00000002
  | .clrhz => wrInputs .status 0x00000200
  | .run w polls => wrInputs .cmd w ++ waitInputs polls
  | .ldkey k0 k1 k2 k3 =>
    wrInputs (.key 0) k0 ++ wrInputs (.key 1) k1 ++ wrInputs (.key 2) k2 ++ wrInputs (.key 3) k3 ++ wrInputs .keylen 0x10
  | .ldblk d0 d1 d2 d3 =>
    wrInputs (.din 0) d0 ++ wrInputs (.din 1) d1 ++ wrInputs (.din 2) d2 ++ wrInputs (.din 3) d3 ++ wrInputs .blklen 0x10

end Sys2Proof.Machine
end

