-- ==== Sys2Proof/Machine/Platform.lean ====
section
/-! DEFINITION. A platform of several instances (spec 00_scope.md R10 N_INSTANCES, 43_orchestrator.md R257,
60_exceptions.md R286; log 14). -/

namespace Sys2Proof.Machine

/-- A platform: its instances, which share nothing (R257). Its length is N_INSTANCES (R10). -/
structure Platform where
  instances : List State
  deriving DecidableEq, Repr

/-- At least one instance, each with legal parameters, at different BASE addresses (R10, R286). -/
abbrev Platform.wf (p : Platform) : Prop :=
  p.instances ≠ [] ∧ (∀ s ∈ p.instances, s.params.wf) ∧ (p.instances.map fun s => s.params.base).Nodup

/-- The instance of index k takes one step (R257: "each instance has its own registers, MSGMEM, table store and engine"). -/
def Platform.stepAt (p : Platform) (k : Nat) : Host.Outcome Platform Fault Refusal :=
  match p.instances[k]? with
  | none => .next p
  | some s =>
    match step s with
    | .next t => .next ⟨p.instances.set k t⟩
    | .fault e => .fault e
    | .refused e => .refused e

/-- The instances whose window holds an address of the host bus: those it is addressed to (20_memory.md R81). -/
def Platform.addressed (p : Platform) (addr : Nat) : List State :=
  p.instances.filter fun s => (windowOffset s.params.base addr).isSome

/-- An access on the host bus reaches the input list of the instance it is addressed to, and no other (R81, R286). -/
def Platform.post (p : Platform) (addr bytes : Nat) (write : Bool) (data : Word) : Platform :=
  ⟨p.instances.map fun s =>
    if (windowOffset s.params.base addr).isSome then { s with inputs := s.inputs ++ [.access addr bytes write data] }
    else s⟩

end Sys2Proof.Machine
end

