-- ==== Sys2Proof/Safety.lean ====
section
/-! DEFINITION. What the machine keeps true, and what counts as a safe run, in the terms the statements use. -/

namespace Sys2Proof.Machine

/-- BUSY and PENDING go together (10_state.md R54, R55, R58), and a command in flight has DONE = 0 and ERRCODE = 0,
because acceptance cleared both and only completion sets them (R33, R57). -/
abbrev State.flightOk (s : State) : Prop :=
  s.busy = s.pending.isSome ∧ (s.busy = true → s.done = false ∧ s.errcode = .none)

/-- With TBL_VALID = 1 the table store holds the combined table (10_state.md R52). -/
abbrev State.tableOk (s : State) : Prop := s.tblValid = true → s.tbl = combinedTable

/-- MSGMEM's written bytes are in canonical form and have indexes below MSG_BYTES (20_memory.md R86). -/
abbrev State.memoryOk (s : State) : Prop :=
  Memory.wf s.msgmem = true ∧ ∀ a, (Memory.read? s.msgmem a).isSome = true → a < s.params.msgBytes

/-- While reset is asserted every item of state has its reset value (70_reset_and_hazards.md R300). -/
abbrev State.resetOk (s : State) : Prop :=
  s.resetLine = true → s = { State.resetWith s.params s.resets with inputs := s.inputs, resetLine := true }

/-- The invariant of the machine. -/
structure State.Inv (s : State) : Prop where
  params : s.params.wf
  flight : s.flightOk
  table : s.tableOk
  memory : s.memoryOk
  reset : s.resetOk

/-- The commands, format CMD (30_encoding.md R122): every instruction but the two host transactions. -/
def isCommand : Instr → Bool
  | .rd32 _ => false
  | .wr32 _ _ => false
  | _ => true

/-- An input that is not a reset. -/
def Input.notReset : Input → Bool
  | .reset _ => false
  | _ => true

/-- The commands of a list performed one after another, each by its completion step, up to the first that is not a next
state: a host that runs each to completion (43_orchestrator.md R253). -/
def execAll : List Instr → State → Host.Outcome State Fault Refusal
  | [], s => .next s
  | i :: rest, s =>
    match exec i s with
    | .next t => execAll rest t
    | .fault e => .fault e
    | .refused e => .refused e

/-- A host that writes a command word to CMD and lets the command complete. -/
def runCommand (word : Word) (i : Instr) : List Instr := [.wr32 0x000 word, i]

/-- The host's sequence of R253: `HINIT`, then for each n below the count `wr CHUNKIDX, n; HCHUNK; HCOMP`. -/
def hostThreading (count : Nat) : List Instr :=
  runCommand 0x00000004 .hinit ++
    (List.range count).flatMap fun n =>
      .wr32 0x01C (BitVec.ofNat 32 n) :: (runCommand 0x00000006 .hchunk ++ runCommand 0x00000005 .hcomp)

/-- A safe run of k steps (60_exceptions.md R276, R289; 93_implementation_defined.md): no bus error, no dropped write,
and no command that completed with an error. -/
def safeRun : Nat → State → Prop
  | 0, _ => True
  | k + 1, s => ∃ t, step s = .next t ∧ t.hz = false ∧ t.errcode = .none ∧ safeRun k t

end Sys2Proof.Machine
end

