-- ==== Sys2Proof/Certificates/Slice0/Obligations.lean ====
section
/-! DEFINITION. The statements for the provers, from the numbered rules of spec/. -/

open Sys2Proof Sys2Proof.Machine

/-! ## Encoding -/

/-- A few words written out from the encodings of R121, R123 and R128 decode to what they stand for (the two records are
printed in 95_test_vectors.md P1 and 30_encoding.md R128). -/
def Obligations.WrittenWordsDecode : Prop :=
  decodeTableWord 32 0x00000001 = some .tblinit ∧
  decodeTableWord 32 0x00000003 = some .xform ∧
  decodeTableWord 32 0x00000103 = some .xformRev ∧
  decodeTableWord 32 0x00000007 = some .hdigest ∧
  decodeTableWord 32 0x00000102 = none ∧
  decodeTableWord 56 0x00006000000000 = some (.rd32 0x060) ∧
  decodeTableWord 56 0x20004001234567 = some (.wr32 0x040 0x01234567)

/-- R123: the eight words, and "These eight words are exactly the legal command words". -/
def Obligations.LegalCommandWordsAreTheEight : Prop :=
  (decodeCommand 0x00000001 = .ok .tblinit ∧ decodeCommand 0x00000002 = .ok .expkey ∧
    decodeCommand 0x00000003 = .ok .xform ∧ decodeCommand 0x00000103 = .ok .xformRev ∧
    decodeCommand 0x00000004 = .ok .hinit ∧ decodeCommand 0x00000005 = .ok .hcomp ∧
    decodeCommand 0x00000006 = .ok .hchunk ∧ decodeCommand 0x00000007 = .ok .hdigest) ∧
  ∀ p : Word, (∃ i, decodeCommand p = .ok i) ↔
    p ∈ [(0x00000001 : Word), 0x00000002, 0x00000003, 0x00000103, 0x00000004, 0x00000005, 0x00000006, 0x00000007]

/-- R124: a pending word is legal by its fields RSV = p[31:9], OPC = p[7:0] and REV = p[8]; a legal one performs the
command with that encoding, any other raises ILLEGAL_COMMAND, which changes only STATUS (and PENDING). -/
def Obligations.PendingWordIsJudgedByItsFields : Prop :=
  ∀ (s : State) (p : Word), s.resetLine = false → s.busy = true → s.pending = some p →
    let legal : Prop := p.extractLsb' 9 23 = 0 ∧ 1 ≤ (p.extractLsb' 0 8).toNat ∧ (p.extractLsb' 0 8).toNat ≤ 7 ∧
      (p.getLsbD 8 = false ∨ p.extractLsb' 0 8 = 3)
    (legal → ∃ i, isCommand i = true ∧ encode i = .cmd p ∧ engineTurn s = exec i s) ∧
    (¬ legal → engineTurn s =
      .next { s with errcode := .illegalCommand, busy := false, done := true, pending := none })

/-- Decode of encode is the instruction, for every well-formed instruction with every operand (R121, R123, R128); and encode
of decode is the command word, so each legal word has one meaning and no bit of it is dropped (R124). -/
def Obligations.DecodeAndEncodeAgree : Prop :=
  (∀ i : Instr, i.wf = true → decode (encode i) = .ok i) ∧
  ∀ (p : Word) (i : Instr), decodeCommand p = .ok i → encode i = .cmd p

/-! ## Where accesses go, and bus errors -/

/-- The register map, the table window and MSGMEM (R82, R85, R86): an access at a location's offset goes to it, and an
access that goes to a location is at its offset; a MSGMEM word is there exactly when its index is a multiple of 4 and all
its bytes are below MSG_BYTES (R87). -/
def Obligations.OffsetsNameTheirLocations : Prop :=
  ∀ mb : Nat, mb ≤ 0x100000 → ∀ (off : Nat) (l : Loc),
    locate mb off = .ok l ↔ (off = l.offset ∧ ∀ a, l = .msg a → a % 4 = 0 ∧ a + 3 < mb)

/-- R83: every read or write at a reserved offset is a bus error, `unmapped` where it is aligned, whatever the state. -/
def Obligations.ReservedOffsetsAreBusErrors : Prop :=
  ∀ (s : State) (off : Nat), s.params.wf →
    (0x028 ≤ off ∧ off < 0x040) ∨ (0x070 ≤ off ∧ off < 0x080) ∨ (0x120 ≤ off ∧ off < 0x140) ∨
      (0x180 ≤ off ∧ off < 0x1000) ∨ (0x2000 ≤ off ∧ off < 0x100000) ∨
      (0x100000 + s.params.msgBytes ≤ off ∧ off ≤ 0x1FFFFF) →
    ∃ e, (off % 4 = 0 → e = BusError.unmapped) ∧ exec (.rd32 off) s = .fault (.busError e) ∧
      ∀ v, exec (.wr32 off v) s = .fault (.busError e)

/-- R91: in the window, an access at `off mod 4 != 0` or of a width other than 32 bits is a bus error; the core does not
split it. -/
def Obligations.MisalignedOrNarrowAccessesAreBusErrors : Prop :=
  (∀ (s : State) (off : Nat), off % 4 ≠ 0 → exec (.rd32 off) s = .fault (.busError .misaligned) ∧
    ∀ v, exec (.wr32 off v) s = .fault (.busError .misaligned)) ∧
  ∀ (s : State) (addr bytes off : Nat) (write : Bool) (v : Word), windowOffset s.params.base addr = some off →
    off % 4 ≠ 0 ∨ bytes ≠ 4 → ∃ e, busTurn addr bytes write v s = .fault (.busError e)

/-- Writes to the read-only locations DOUT_0..3, NBLK and MSGCAP are bus errors whatever BUSY is, so HZ is not set
(20_memory.md R92, R95); the table window is stated with its reads. -/
def Obligations.ReadOnlyWritesAreBusErrors : Prop :=
  ∀ (s : State) (v : Word), exec (.wr32 0x020 v) s = .fault (.busError .readOnly) ∧
    exec (.wr32 0x024 v) s = .fault (.busError .readOnly) ∧
    ∀ j : Fin 4, exec (.wr32 (0x060 + 4 * j) v) s = .fault (.busError .readOnly)

/-- R85: a read of the table window returns `Tbl[i][b]` when TBL_VALID = 1 and is a bus error when TBL_VALID = 0; every
write in the window is a bus error. -/
def Obligations.TableWindowReadsTheTable : Prop :=
  ∀ (s : State) (i : Fin 4) (b : Fin 256),
    (s.tblValid = true →
      exec (.rd32 (0x1000 + 0x400 * i + 4 * b)) s = .next { s with rdata := some s.tbl[i][b] }) ∧
    (s.tblValid = false → exec (.rd32 (0x1000 + 0x400 * i + 4 * b)) s = .fault (.busError .tableNotBuilt)) ∧
    ∀ (off : Nat) (v : Word), 0x1000 ≤ off → off ≤ 0x1FFF → ∃ e, exec (.wr32 off v) s = .fault (.busError e)

/-! ## Host reads -/

/-- RD32 completes at every register, with the value of R94's table, and changes nothing but the answer to the host (R93);
NBLK and MSGCAP are computed (R40, R41). In every state, so also while BUSY. -/
def Obligations.ReadsReturnTheRegisters : Prop :=
  ∀ s : State,
    exec (.rd32 0x000) s = .next { s with rdata := some s.cmdLast } ∧
    exec (.rd32 0x004) s = .next { s with rdata := some s.statusWord } ∧
    exec (.rd32 0x008) s = .next { s with rdata := some (if s.ie then 1 else 0) } ∧
    exec (.rd32 0x00C) s = .next { s with rdata := some s.keylen } ∧
    exec (.rd32 0x010) s = .next { s with rdata := some s.blklen } ∧
    exec (.rd32 0x014) s = .next { s with rdata := some s.mblen } ∧
    exec (.rd32 0x018) s = .next { s with rdata := some s.msglen } ∧
    exec (.rd32 0x01C) s = .next { s with rdata := some s.chunkidx } ∧
    exec (.rd32 0x020) s = .next { s with rdata := some (BitVec.ofNat 32 ((s.msglen.toNat + 8) / 64 + 1)) } ∧
    exec (.rd32 0x024) s = .next { s with rdata := some (BitVec.ofNat 32 s.params.msgBytes) } ∧
    (∀ j : Fin 4, exec (.rd32 (0x040 + 4 * j)) s = .next { s with rdata := some s.key[j] }) ∧
    (∀ j : Fin 4, exec (.rd32 (0x050 + 4 * j)) s = .next { s with rdata := some s.din[j] }) ∧
    (∀ j : Fin 4, exec (.rd32 (0x060 + 4 * j)) s = .next { s with rdata := some s.dout[j] }) ∧
    (∀ i : Fin 32, exec (.rd32 (0x080 + 4 * i)) s = .next { s with rdata := some s.rk[i] }) ∧
    (∀ j : Fin 8, exec (.rd32 (0x100 + 4 * j)) s = .next { s with rdata := some s.hstate[j] }) ∧
    ∀ j : Fin 16, exec (.rd32 (0x140 + 4 * j)) s = .next { s with rdata := some s.mb[j] }

/-- R87: a read of a MSGMEM word returns its four bytes, the byte at the lowest index most significant. A byte the host has
not written since reset reads as a free value (log 2). -/
def Obligations.MessageReadsAreBigEndian : Prop :=
  ∀ (s : State) (a : Nat), s.params.msgBytes ≤ 0x100000 → a % 4 = 0 → a + 3 < s.params.msgBytes →
    ∃ v : Word, exec (.rd32 (0x100000 + a)) s = .next { s with rdata := some v } ∧
      v.extractLsb' 24 8 = s.msgByte a ∧ v.extractLsb' 16 8 = s.msgByte (a + 1) ∧
      v.extractLsb' 8 8 = s.msgByte (a + 2) ∧ v.extractLsb' 0 8 = s.msgByte (a + 3)

/-- The fields of a STATUS read (R33): each bit of the word, with the reserved bits 0. -/
def Obligations.StatusWordHoldsItsFields : Prop :=
  ∀ s : State,
    s.statusWord.getLsbD 0 = s.busy ∧ s.statusWord.getLsbD 1 = s.done ∧
    s.statusWord.getLsbD 2 = decide (s.errcode ≠ .none) ∧ s.statusWord.getLsbD 3 = false ∧
    s.statusWord.extractLsb' 4 4 = (match s.errcode with
      | .none => 0 | .invalidLength => 1 | .illegalCommand => 2 | .msgTooLong => 3 | .chunkRange => 4) ∧
    s.statusWord.getLsbD 8 = s.tblValid ∧ s.statusWord.getLsbD 9 = s.hz ∧
    s.statusWord.getLsbD 10 = (s.done && s.ie) ∧ s.statusWord.extractLsb' 11 21 = 0

/-! ## Host writes -/

/-- R54: a write of any word to CMD while BUSY = 0 accepts it: CMD_LAST, PENDING, BUSY, DONE and ERRCODE change, nothing
else. -/
def Obligations.IdleCmdWriteAcceptsAnyWord : Prop :=
  ∀ (s : State) (v : Word), s.busy = false →
    exec (.wr32 0x000 v) s =
      .next { s with cmdLast := v, pending := some v, busy := true, done := false, errcode := .none }

/-- A write to STATUS or CTRL is never dropped. STATUS: a 1 in bit 1 clears DONE, a 1 in bit 9 clears HZ, and nothing else
changes, ERRCODE included (R33). CTRL: IE takes bit 0, the other bits are ignored (R34). -/
def Obligations.StatusAndCtrlWritesAreNeverDropped : Prop :=
  ∀ (s : State) (v : Word),
    exec (.wr32 0x004 v) s = .next
      { s with done := if v.getLsbD 1 then false else s.done, hz := if v.getLsbD 9 then false else s.hz } ∧
    exec (.wr32 0x008 v) s = .next { s with ie := v.getLsbD 0 }

/-- WR32 completes at every other read/write register while BUSY = 0: the register takes the word, nothing else changes
(R93, R95). -/
def Obligations.IdleWritesStoreTheWord : Prop :=
  ∀ (s : State) (v : Word), s.busy = false →
    exec (.wr32 0x00C v) s = .next { s with keylen := v } ∧
    exec (.wr32 0x010 v) s = .next { s with blklen := v } ∧
    exec (.wr32 0x014 v) s = .next { s with mblen := v } ∧
    exec (.wr32 0x018 v) s = .next { s with msglen := v } ∧
    exec (.wr32 0x01C v) s = .next { s with chunkidx := v } ∧
    (∀ j : Fin 4, exec (.wr32 (0x040 + 4 * j) v) s = .next { s with key := s.key.set j v }) ∧
    (∀ j : Fin 4, exec (.wr32 (0x050 + 4 * j) v) s = .next { s with din := s.din.set j v }) ∧
    (∀ i : Fin 32, exec (.wr32 (0x080 + 4 * i) v) s = .next { s with rk := s.rk.set i v }) ∧
    (∀ j : Fin 8, exec (.wr32 (0x100 + 4 * j) v) s = .next { s with hstate := s.hstate.set j v }) ∧
    ∀ j : Fin 16, exec (.wr32 (0x140 + 4 * j) v) s = .next { s with mb := s.mb.set j v }

/-- R88 while BUSY = 0: a write of a MSGMEM word stores its four bytes, most significant at the lowest index, leaves every
other byte and every other field alone, and a read of the word then returns it (R87). -/
def Obligations.MessageWritesAreBigEndianAndReadBack : Prop :=
  ∀ (s : State) (a : Nat) (v : Word), s.params.msgBytes ≤ 0x100000 → s.busy = false → a % 4 = 0 →
    a + 3 < s.params.msgBytes →
    ∃ t, exec (.wr32 (0x100000 + a) v) s = .next t ∧ t = { s with msgmem := t.msgmem } ∧
      t.msgByte a = v.extractLsb' 24 8 ∧ t.msgByte (a + 1) = v.extractLsb' 16 8 ∧
      t.msgByte (a + 2) = v.extractLsb' 8 8 ∧ t.msgByte (a + 3) = v.extractLsb' 0 8 ∧
      (∀ b, b < a ∨ a + 4 ≤ b → t.msgByte b = s.msgByte b) ∧
      exec (.rd32 (0x100000 + a)) t = .next { t with rdata := some v }

/-- R310: while BUSY = 1 a write to any location but STATUS and CTRL is dropped and sets HZ: the location keeps its value and
no command is accepted. Bus errors are checked first: an offset that names no location (misaligned or reserved) and a
read-only location are bus errors. -/
def Obligations.BusyWritesAreDroppedAndSetHz : Prop :=
  ∀ (s : State) (v : Word) (off : Nat), s.busy = true → off ≠ 0x004 → off ≠ 0x008 →
    let bad : Prop := (∀ l, locate s.params.msgBytes off ≠ .ok l) ∨ off = 0x020 ∨ off = 0x024 ∨
      (0x060 ≤ off ∧ off < 0x070) ∨ (0x1000 ≤ off ∧ off < 0x2000)
    (bad → ∃ e, exec (.wr32 off v) s = .fault (.busError e)) ∧
    (¬ bad → exec (.wr32 off v) s = .next { s with hz := true })

/-! ## Cipher primitives and the table -/

/-- R154: L and Lk are linear over XOR and commute with rotation. -/
def Obligations.DiffusionsAreLinear : Prop :=
  (∀ a b : Word, diffuse (a ^^^ b) = diffuse a ^^^ diffuse b ∧
    diffuseKey (a ^^^ b) = diffuseKey a ^^^ diffuseKey b) ∧
  ∀ (a : Word) (n : Nat), n < 32 → diffuse (rotl a n) = rotl (diffuse a) n ∧
    diffuseKey (rotl a n) = rotl (diffuseKey a) n

/-- R158: the combined-table invariant, with the rule's four example entries. -/
def Obligations.CombinedTableInvariant : Prop :=
  (∀ (i : Fin 4) (b : Fin 256),
    combinedTable[i][b] = diffuse ((sbox (BitVec.ofNat 8 b)).setWidth 32 <<< (8 * i.val))) ∧
  combinedTable[0][0] = 0xd55b5b8e ∧ combinedTable[1][0] = 0x5b5b8ed5 ∧ combinedTable[3][1] = 0xd0924242 ∧
  combinedTable[0][0xff] = 0x49212168

/-- R161: every column of the table is a rotation of the first. -/
def Obligations.TableColumnsAreRotations : Prop :=
  ∀ (i : Fin 4) (b : Fin 256), combinedTable[i][b] = rotl combinedTable[0][b] (8 * i)

/-- R159: the lookup of the four entries of x's bytes in the combined table is substitute-then-diffuse, for every x. -/
def Obligations.TableLookupIsSubstituteThenDiffuse : Prop :=
  ∀ x : Word,
    lookupF combinedTable x = combinedTable[0][(byteLane 0 x).toNat]! ^^^ combinedTable[1][(byteLane 1 x).toNat]! ^^^
      combinedTable[2][(byteLane 2 x).toNat]! ^^^ combinedTable[3][(byteLane 3 x).toNat]! ∧
    lookupF combinedTable x = diffuse (tau x) ∧ diffuse (tau x) = roundT x

/-! ## Cipher commands -/

/-- TBLINIT (R160) completes in every state: the table store holds the combined table, TBL_VALID is 1, and nothing else
changes but the completion status. -/
def Obligations.TblinitBuildsTheTable : Prop :=
  ∀ s : State, exec .tblinit s =
    .next { s with tbl := combinedTable, tblValid := true, errcode := .none, busy := false, done := true, pending := none }

/-- R180: the round keys are k[4..35] of the recurrence over k[0..3] = K ^ FK, with Tk = Lk of tau. -/
def Obligations.RoundKeysFollowTheRecurrence : Prop :=
  ∀ key : Vector Word 4, ∃ k : Nat → Word,
    k 0 = key[0] ^^^ 0xa3b1bac6 ∧ k 1 = key[1] ^^^ 0x56aa3350 ∧ k 2 = key[2] ^^^ 0x677d9197 ∧
    k 3 = key[3] ^^^ 0xb27022dc ∧
    (∀ i < 32, k (i + 4) =
      k i ^^^ diffuseKey (tau (k (i + 1) ^^^ k (i + 2) ^^^ k (i + 3) ^^^ roundConstants.getD i 0))) ∧
    ∀ i : Fin 32, (expandKeyFn key)[i] = k (i + 4)

/-- EXPKEY (R181) completes in every state: with KEYLEN = 16 it writes the 32 round keys and nothing else; with any other
KEYLEN it reports INVALID_LENGTH and RK is unchanged. -/
def Obligations.ExpkeyWritesTheRoundKeys : Prop :=
  ∀ s : State,
    (s.keylen = 16 → exec .expkey s =
      .next { s with rk := expandKeyFn s.key, errcode := .none, busy := false, done := true, pending := none }) ∧
    (s.keylen ≠ 16 → exec .expkey s =
      .next { s with errcode := .invalidLength, busy := false, done := true, pending := none })

/-- R182: the block transform is X[35], X[34], X[33], X[32] of the recurrence, for any round function and any 32 round
keys. -/
def Obligations.BlockTransformFollowsTheRecurrence : Prop :=
  ∀ (F : Word → Word) (block : Vector Word 4) (r : Fin 32 → Word), ∃ X : Nat → Word,
    X 0 = block[0] ∧ X 1 = block[1] ∧ X 2 = block[2] ∧ X 3 = block[3] ∧
    (∀ i : Fin 32, X (i + 4) = X i ^^^ F (X (i + 1) ^^^ X (i + 2) ^^^ X (i + 3) ^^^ r i)) ∧
    transformFn F block (List.ofFn r) = #v[X 35, X 34, X 33, X 32]

/-- XFORM and XFORM.REV (R183) complete. With BLKLEN = 16, DOUT is the transform of DIN with RK_i in round i, or RK_(31-i)
with REV = 1; the table is built and valid after it; nothing else changes. The premise on the table store is the invariant
of R52 (stated and kept in StepKeepsTheInvariant), so the result does not depend on how the table was built. With any other
BLKLEN they report INVALID_LENGTH and DOUT, Tbl and TBL_VALID are unchanged. -/
def Obligations.XformTransformsTheBlock : Prop :=
  ∀ s : State, s.tableOk →
    (s.blklen = 16 →
      exec .xform s = .next { s with
        tbl := combinedTable, tblValid := true, dout := transformFn roundT s.din (List.ofFn fun i : Fin 32 => s.rk[i]),
        errcode := .none, busy := false, done := true, pending := none } ∧
      exec .xformRev s = .next { s with
        tbl := combinedTable, tblValid := true,
        dout := transformFn roundT s.din (List.ofFn fun i : Fin 32 => s.rk[31 - i.val]),
        errcode := .none, busy := false, done := true, pending := none }) ∧
    (s.blklen ≠ 16 →
      exec .xform s = .next { s with errcode := .invalidLength, busy := false, done := true, pending := none } ∧
      exec .xformRev s = .next { s with errcode := .invalidLength, busy := false, done := true, pending := none })

/-- R184: the reversed round keys undo the transform, for any words in RK and any round function; and on the machine,
XFORM and then XFORM.REV on its result (DOUT copied to DIN) gives the first DIN back. -/
def Obligations.ReversedRoundKeysDecrypt : Prop :=
  (∀ (F : Word → Word) (block : Vector Word 4) (r : List Word),
    transformFn F (transformFn F block r) r.reverse = block) ∧
  ∀ s : State, s.blklen = 16 →
    ∃ t u, exec .xform s = .next t ∧ exec .xformRev { t with din := t.dout } = .next u ∧
      t.errcode = .none ∧ u.errcode = .none ∧ u.dout = s.din

/-! ## Padding and chunks -/

/-- R211: the padded length is L + 9 + z, which is 64 * NBLK(L), with z = (55 - L) mod 64 below 64. -/
def Obligations.PaddedLengthIsWholeBlocks : Prop :=
  ∀ M : List Byte, ∃ z : Nat, z < 64 ∧ (M.length + 1 + z) % 64 = 56 ∧ (padFn M).length = M.length + 9 + z ∧
    (padFn M).length = 64 * ((M.length + 8) / 64 + 1)

/-- R210: the padded message is the message, 0x80, zeros up to 56 modulo 64, and the bit length as 8 big-endian bytes. A bit
length of 2^64 or more is unreachable (R216, log 19). -/
def Obligations.PaddingFollowsItsThreeParts : Prop :=
  ∀ M : List Byte, 8 * M.length < 2 ^ 64 → ∃ z : Nat, z < 64 ∧ (M.length + 1 + z) % 64 = 56 ∧
    padFn M = M ++ [0x80] ++ List.replicate z 0 ++
      List.ofFn fun k : Fin 8 => BitVec.ofNat 8 (8 * M.length / 2 ^ (8 * (7 - k.val)))

/-- R212: the case form of a padded byte is the byte of the padded message. -/
def Obligations.PadByteIsTheByteOfThePaddedMessage : Prop :=
  ∀ (M : List Byte) (p : Nat), p < 64 * ((M.length + 8) / 64 + 1) → (padFn M)[p]? = some (padByte M p)

/-- R213: the block count is ceil((L + 9) / 64), with the rule's values; NBLK reads it for the current MSGLEN, and the
32-bit read loses nothing, since it is at most 2^26 + 1 (R40). -/
def Obligations.BlockCountIsTheCeiling : Prop :=
  (∀ L : Nat, blockCount L = (L + 8) / 64 + 1 ∧ 64 * blockCount L < L + 9 + 64 ∧ L + 9 ≤ 64 * blockCount L) ∧
  blockCount 0 = 1 ∧ blockCount 55 = 1 ∧ blockCount 56 = 2 ∧ blockCount 64 = 2 ∧ blockCount 119 = 2 ∧
  blockCount 120 = 3 ∧
  ∀ s : State, ∃ v : Word, exec (.rd32 0x020) s = .next { s with rdata := some v } ∧
    v.toNat = blockCount s.msglen.toNat ∧ v.toNat ≤ 2 ^ 26 + 1

/-- R214: a chunk is 64 padded bytes, and the chunks in order concatenate to the padded message. -/
def Obligations.ChunksConcatenateToThePaddedMessage : Prop :=
  ∀ M : List Byte,
    (∀ n < blockCount M.length, (chunk M n).length = 64 ∧
      ∀ k < 64, (chunk M n)[k]? = some (padByte M (64 * n + k))) ∧
    (List.range (blockCount M.length)).flatMap (chunk M) = padFn M

/-- HCHUNK (R218) completes. With MSGLEN <= MSG_BYTES and CHUNKIDX < NBLK(MSGLEN): MB_j is the big-endian word of bytes
4j .. 4j+3 of the chunk of MSGMEM[0 .. MSGLEN-1], MBLEN is 64, nothing else changes. Else the first check that fails decides
the code (R274): MSG_TOO_LONG, whatever CHUNKIDX is, then CHUNK_RANGE; MB and MBLEN are unchanged. -/
def Obligations.HchunkLoadsTheChunk : Prop :=
  ∀ s : State,
    (s.msglen.toNat ≤ s.params.msgBytes → s.chunkidx.toNat < (s.msglen.toNat + 8) / 64 + 1 →
      ∃ t, exec .hchunk s = .next t ∧
        t = { s with mb := t.mb, mblen := 64, errcode := .none, busy := false, done := true, pending := none } ∧
        ∀ j : Fin 16,
          let c := chunk (s.memRead 0 s.msglen.toNat) s.chunkidx.toNat
          t.mb[j] = be32 (c.getD (4 * j) 0) (c.getD (4 * j + 1) 0) (c.getD (4 * j + 2) 0) (c.getD (4 * j + 3) 0)) ∧
    (s.params.msgBytes < s.msglen.toNat → exec .hchunk s =
      .next { s with errcode := .msgTooLong, busy := false, done := true, pending := none }) ∧
    (s.msglen.toNat ≤ s.params.msgBytes → (s.msglen.toNat + 8) / 64 + 1 ≤ s.chunkidx.toNat → exec .hchunk s =
      .next { s with errcode := .chunkRange, busy := false, done := true, pending := none })

/-! ## Compression and digest -/

/-- R223: the message expansion. -/
def Obligations.ExpansionFollowsTheRecurrence : Prop :=
  ∀ m : Vector Word 16,
    let W := fun i => (expandW m).getD i 0
    (expandW m).length = 68 ∧ (∀ i : Fin 16, W i = m[i]) ∧
    (∀ i, 16 ≤ i → i ≤ 67 →
      W i = permP1 (W (i - 16) ^^^ W (i - 9) ^^^ rotl (W (i - 3)) 15) ^^^ rotl (W (i - 13)) 7 ^^^ W (i - 6)) ∧
    ∀ i, i ≤ 63 → expandW1 (expandW m) i = W i ^^^ W (i + 4)

/-- R224: the compression is 64 rounds from the state, then the old state XOR the registers. Both shifts read the registers
from before the round, and F takes the old E (90_conflicts.md C1). -/
def Obligations.CompressionFollowsTheRounds : Prop :=
  ∀ (V : Vector Word 8) (m : Vector Word 16), ∃ r : Nat → HashRegs,
    r 0 = ⟨V[0], V[1], V[2], V[3], V[4], V[5], V[6], V[7]⟩ ∧
    (∀ i < 64,
      let T : Word := if i ≤ 15 then 0x79cc4519 else 0x7a879d8a
      let SS1 := rotl (rotl (r i).a 12 + (r i).e + rotl T (i % 32)) 7
      let SS2 := SS1 ^^^ rotl (r i).a 12
      let TT1 := boolFF (r i).a (r i).b (r i).c i + (r i).d + SS2 + expandW1 (expandW m) i
      let TT2 := boolGG (r i).e (r i).f (r i).g i + (r i).h + SS1 + (expandW m).getD i 0
      (r (i + 1)).d = (r i).c ∧ (r (i + 1)).c = rotl (r i).b 9 ∧ (r (i + 1)).b = (r i).a ∧ (r (i + 1)).a = TT1 ∧
      (r (i + 1)).h = (r i).g ∧ (r (i + 1)).g = rotl (r i).f 19 ∧ (r (i + 1)).f = (r i).e ∧
      (r (i + 1)).e = permP0 TT2) ∧
    compressFn V m = #v[V[0] ^^^ (r 64).a, V[1] ^^^ (r 64).b, V[2] ^^^ (r 64).c, V[3] ^^^ (r 64).d,
      V[4] ^^^ (r 64).e, V[5] ^^^ (r 64).f, V[6] ^^^ (r 64).g, V[7] ^^^ (r 64).h]

/-- HINIT (R226) completes in every state: STATE is the initial vector of R219, nothing else changes. -/
def Obligations.HinitLoadsTheInitialVector : Prop :=
  ∀ s : State, exec .hinit s = .next { s with
    hstate := #v[0x7380166f, 0x4914b2b9, 0x172442d7, 0xda8a0600, 0xa96f30bc, 0x163138aa, 0xe38dee4d, 0xb0fb0e4e],
    errcode := .none, busy := false, done := true, pending := none }

/-- HCOMP (R227) completes in every state: with MBLEN = 64 STATE is the compression of STATE and MB, and MBLEN keeps its
value; with any other MBLEN it reports INVALID_LENGTH and STATE is unchanged. -/
def Obligations.HcompCompressesOneBlock : Prop :=
  ∀ s : State,
    (s.mblen = 64 → exec .hcomp s = .next { s with
      hstate := compressFn s.hstate s.mb, errcode := .none, busy := false, done := true, pending := none }) ∧
    (s.mblen ≠ 64 → exec .hcomp s =
      .next { s with errcode := .invalidLength, busy := false, done := true, pending := none })

/-- HDIGEST (R251) completes in every state: with MSGLEN <= MSG_BYTES, STATE is the last of the states chained from IV
through every chunk of the message, block 0 first (R250, R252), whatever STATE was; with a greater MSGLEN it reports
MSG_TOO_LONG. It writes neither MB nor MBLEN nor CHUNKIDX. -/
def Obligations.HdigestChainsEveryBlock : Prop :=
  ∀ s : State,
    (s.msglen.toNat ≤ s.params.msgBytes → ∃ V : Nat → Vector Word 8,
      V 0 = initialVector ∧
      (∀ n < (s.msglen.toNat + 8) / 64 + 1,
        V (n + 1) = compressFn (V n) (chunkWords (s.memRead 0 s.msglen.toNat) n)) ∧
      exec .hdigest s = .next { s with
        hstate := V ((s.msglen.toNat + 8) / 64 + 1), errcode := .none, busy := false, done := true, pending := none }) ∧
    (s.params.msgBytes < s.msglen.toNat → exec .hdigest s =
      .next { s with errcode := .msgTooLong, busy := false, done := true, pending := none })

/-- R253: for a message that fits, the host's HINIT and then `wr CHUNKIDX, n; HCHUNK; HCOMP` for every block, each command
accepted and run to completion, leaves the STATE that HDIGEST leaves. HDIGEST is taken by its completion step at BUSY = 0
(the model's choice, log 10), and a byte the host has not written reads the same in every block (log 2). -/
def Obligations.HostThreadingEqualsHdigest : Prop :=
  ∀ s : State, s.busy = false → s.msglen.toNat ≤ s.params.msgBytes →
    ∃ t u, execAll (hostThreading ((s.msglen.toNat + 8) / 64 + 1)) s = .next t ∧ exec .hdigest s = .next u ∧
      t.errcode = .none ∧ u.errcode = .none ∧ t.hstate = u.hstate

/-- Padding and digest depend on the message bytes alone (R215, R217): two states with the same MSGLEN, capacity and
message bytes give the same digest, and the same chunk for the same CHUNKIDX. -/
def Obligations.DigestDependsOnlyOnTheMessage : Prop :=
  ∀ s s' : State, s.params.msgBytes = s'.params.msgBytes → s.msglen = s'.msglen →
    s.msglen.toNat ≤ s.params.msgBytes → (∀ a < s.msglen.toNat, s.msgByte a = s'.msgByte a) →
    (∃ t t', exec .hdigest s = .next t ∧ exec .hdigest s' = .next t' ∧ t.hstate = t'.hstate) ∧
    (s.chunkidx = s'.chunkidx → s.chunkidx.toNat < (s.msglen.toNat + 8) / 64 + 1 →
      ∃ t t', exec .hchunk s = .next t ∧ exec .hchunk s' = .next t' ∧ t.mb = t'.mb)

/-! ## Errors, status and the interrupt -/

/-- Every command answers a next state with exactly one code, the first check that fails (R270, R271, R274): the code of
each command by its operands. -/
def Obligations.CommandsReportOneCode : Prop :=
  ∀ (i : Instr) (s : State), isCommand i = true → ∃ t, exec i s = .next t ∧ t.busy = false ∧ t.done = true ∧
    t.pending = none ∧ t.errcode = (match i with
      | .expkey => if s.keylen = 16 then ErrCode.none else .invalidLength
      | .xform => if s.blklen = 16 then .none else .invalidLength
      | .xformRev => if s.blklen = 16 then .none else .invalidLength
      | .hcomp => if s.mblen = 64 then .none else .invalidLength
      | .hchunk => if s.params.msgBytes < s.msglen.toNat then .msgTooLong
        else if blockCount s.msglen.toNat ≤ s.chunkidx.toNat then .chunkRange else .none
      | .hdigest => if s.params.msgBytes < s.msglen.toNat then .msgTooLong else .none
      | _ => .none)

/-- R275: an error completion writes ERRCODE, BUSY and DONE (and ends PENDING), and nothing else, CMD_LAST included: a command
commits all of its results or none. So too for a word that is not legal. -/
def Obligations.ErrorsChangeOnlyStatus : Prop :=
  (∀ (i : Instr) (s t : State), isCommand i = true → exec i s = .next t → t.errcode ≠ .none →
    t = { s with errcode := t.errcode, busy := false, done := true, pending := none }) ∧
  ∀ (s : State) (p : Word) (e : Reject), decodeCommand p = .error e →
    completePending s p = .next { s with errcode := .illegalCommand, busy := false, done := true, pending := none }

/-- The frame of the commands (R122's table of what each writes): every other register, the host's fields of STATUS and
CTRL, the parameters and every byte of MSGMEM are unchanged. -/
def Obligations.CommandsKeepWhatTheyDoNotWrite : Prop :=
  ∀ (i : Instr) (s t : State), isCommand i = true → exec i s = .next t →
    (t.cmdLast = s.cmdLast ∧ t.hz = s.hz ∧ t.ie = s.ie ∧ t.keylen = s.keylen ∧ t.blklen = s.blklen ∧
      t.msglen = s.msglen ∧ t.chunkidx = s.chunkidx ∧ t.key = s.key ∧ t.din = s.din ∧ t.params = s.params ∧
      t.resetLine = s.resetLine ∧ t.inputs = s.inputs ∧ t.rdata = s.rdata ∧ ∀ a, t.msgByte a = s.msgByte a) ∧
    (i ≠ .expkey → t.rk = s.rk) ∧ (i ≠ .xform → i ≠ .xformRev → t.dout = s.dout) ∧
    (i ≠ .hinit → i ≠ .hcomp → i ≠ .hdigest → t.hstate = s.hstate) ∧
    (i ≠ .hchunk → t.mb = s.mb ∧ t.mblen = s.mblen) ∧
    (i ≠ .tblinit → i ≠ .xform → i ≠ .xformRev → t.tbl = s.tbl ∧ t.tblValid = s.tblValid)

/-- No command reads CTRL (R34), HZ (R57) or CMD_LAST (none is among the operands of R122): with other values there, a command does the same and keeps them. -/
def Obligations.CommandsDoNotReadCtrlOrHz : Prop :=
  ∀ (i : Instr) (s t : State) (ie hz : Bool) (c : Word), isCommand i = true → exec i s = .next t →
    exec i { s with ie := ie, hz := hz, cmdLast := c } = .next { t with ie := ie, hz := hz, cmdLast := c }

/-- The interrupt output (R56, R281): `DONE & IE`; after a completion, with or without error, it is IE; it falls by a W1C
of DONE, by an acceptance, and by clearing IE. -/
def Obligations.InterruptFollowsDoneAndEnable : Prop :=
  ∀ s : State, s.irq = (s.done && s.ie) ∧
    (∀ (i : Instr) (t : State), isCommand i = true → exec i s = .next t → t.irq = s.ie) ∧
    (∀ (v : Word), v.getLsbD 1 = true → ∃ t, exec (.wr32 0x004 v) s = .next t ∧ t.irq = false) ∧
    (∀ (v : Word), v.getLsbD 0 = false → ∃ t, exec (.wr32 0x008 v) s = .next t ∧ t.irq = false) ∧
    (s.busy = false → ∀ v : Word, ∃ t, exec (.wr32 0x000 v) s = .next t ∧ t.irq = false)

/-- While BUSY = 1, host events other than reset leave the command in flight and every operand as they were (R98, R310);
they can change only CTRL.IE, DONE, HZ, the input list and the answer to the host. -/
def Obligations.HostEventsWhileBusyKeepTheOperands : Prop :=
  ∀ (e : Input) (s t : State), e.notReset = true → e ≠ .engine → s.busy = true → turn e s = .next t →
    t = { s with ie := t.ie, done := t.done, hz := t.hz, rdata := t.rdata }

/-- A command's results do not depend on what the host does while it runs (R98): a host event before the completion or
none, the completion writes the same results. -/
def Obligations.ResultsAreFixedAtAcceptance : Prop :=
  ∀ (e : Input) (s t u : State), e.notReset = true → e ≠ .engine → s.resetLine = false → s.busy = true →
    s.pending.isSome = true → turn e s = .next t → engineTurn s = .next u →
    ∃ w, engineTurn t = .next w ∧ w.errcode = u.errcode ∧ w.rk = u.rk ∧ w.dout = u.dout ∧ w.hstate = u.hstate ∧
      w.mb = u.mb ∧ w.mblen = u.mblen ∧ w.tbl = u.tbl ∧ w.tblValid = u.tblValid

/-! ## The step -/

/-- A step runs the decoded command: with a command in flight and the reset line low, the engine's turn (its entry in the
input list, or no input left) is exec of the decoded instruction (R55, R124). The input list and the engine's turn on an
empty one are the model's (log 4). -/
def Obligations.StepRunsThePendingCommand : Prop :=
  ∀ (s : State) (p : Word) (i : Instr), s.resetLine = false → s.busy = true → s.pending = some p →
    decodeCommand p = .ok i →
    (s.inputs = [] → step s = exec i s) ∧
    ∀ rest, s.inputs = .engine :: rest → step s = exec i { s with inputs := rest }

/-- A step performs the host's transaction: the record at the head of the input list, or the 32-bit access at an address of
the window, is exec of the decoded RD32 or WR32 with the event taken off the list (R81, R96, R128; log 4, log 16). -/
def Obligations.StepPerformsTheHostTransaction : Prop :=
  (∀ (s : State) (r : BitVec 54) (rest : List Input), s.resetLine = false → s.inputs = .record r :: rest →
    step s = exec (decodeRecord r) { s with inputs := rest }) ∧
  ∀ (s : State) (off : Nat) (write : Bool) (v : Word) (rest : List Input), s.resetLine = false → off ≤ 0x1FFFFF →
    s.inputs = .access (s.params.base + off) 4 write v :: rest →
    step s = exec (if write then .wr32 off v else .rd32 off) { s with inputs := rest }

/-- The host's placing of one instruction (log 8): the next step after withFetchWord is exec of the instruction the decoder
reads from the word. -/
def Obligations.PlacedInstructionRunsNext : Prop :=
  ∀ (s : State) (nbits w : Nat) (i : Instr), decodeTableWord nbits w = some i →
    (nbits ≤ 32 → step (s.withFetchWord nbits w) =
      exec i { s with pending := some (BitVec.ofNat 32 w), busy := true, resetLine := false }) ∧
    (32 < nbits → step (s.withFetchWord nbits w) = exec i { s with resetLine := false })

/-- With BUSY = 0 the engine is idle and all state is kept (R288); an access outside the window is not addressed to the
instance and leaves its state (R81). The event itself leaves the input list (log 4). -/
def Obligations.IdleKeepsAllState : Prop :=
  (∀ s : State, s.busy = false → s.inputs = [] → step s = .next s) ∧
  (∀ (s : State) (rest : List Input), s.busy = false → s.inputs = .engine :: rest →
    step s = .next { s with inputs := rest }) ∧
  ∀ (s : State) (addr bytes : Nat) (write : Bool) (v : Word) (rest : List Input),
    addr < s.params.base ∨ s.params.base + 0x200000 ≤ addr → s.inputs = .access addr bytes write v :: rest →
    step s = .next { s with inputs := rest }

/-- The values after reset (R60), for every legal parameter: the registers, STATUS, CTRL and NBLK's read. -/
def Obligations.ResetLeavesTheStatedValues : Prop :=
  (∃ p n, State.reset = State.resetWith p n ∧ p.wf) ∧
  ∀ (p : Config.Params) (n : Nat),
    let s := State.resetWith p n
    s.cmdLast = 0 ∧ s.statusWord = 0 ∧ s.ctrlWord = 0 ∧ s.pending = none ∧ s.irq = false ∧
    s.keylen = 0 ∧ s.blklen = 0 ∧ s.mblen = 0 ∧ s.msglen = 0 ∧ s.chunkidx = 0 ∧
    (∀ j : Fin 4, s.key[j] = 0 ∧ s.din[j] = 0 ∧ s.dout[j] = 0) ∧ (∀ i : Fin 32, s.rk[i] = 0) ∧
    (∀ j : Fin 8, s.hstate[j] = 0) ∧ (∀ j : Fin 16, s.mb[j] = 0) ∧
    exec (.rd32 0x020) s = .next { s with rdata := some 1 } ∧
    exec (.rd32 0x024) s = .next { s with rdata := some (BitVec.ofNat 32 p.msgBytes) }

/-- Reset overrides (R300, R301): asserting the line gives every item its reset value and aborts the command in flight;
while it is asserted a host access is a bus error and the engine does nothing. -/
def Obligations.ResetAbortsTheCommandInFlight : Prop :=
  (∀ (s : State) (rest : List Input), s.inputs = .reset true :: rest → ∃ t, step s = .next t ∧
    t = { State.resetWith s.params (s.resets + 1) with inputs := rest, resetLine := true } ∧
    t.busy = false ∧ t.done = false ∧ t.pending = none ∧ t.tblValid = false) ∧
  (∀ (s : State) (rest : List Input), s.inputs = .reset false :: rest →
    step s = .next { s with inputs := rest, resetLine := false }) ∧
  ∀ s : State, s.resetLine = true →
    engineTurn s = .next s ∧ ∀ r : BitVec 54, turn (.record r) s = .fault (.busError .inReset)

/-- The invariant holds at reset. -/
def Obligations.InvariantHoldsAtReset : Prop := State.reset.Inv

/-- Every step keeps the invariant: PENDING is there exactly while BUSY, with DONE and ERRCODE clear (R54, R55, R58); a
valid table store holds the combined table (R52); MSGMEM stays canonical and inside its capacity (R86); the parameters stay
legal (R10); and while reset is asserted all state has its reset value (R300). -/
def Obligations.StepKeepsTheInvariant : Prop :=
  ∀ s t : State, s.Inv → step s = .next t → t.Inv

/-- R315's weak fairness in the model: an accepted command completes, unless reset intervenes or the host's access is a bus
error, within one step more than the inputs to come (the bound is the model's, log 4). -/
def Obligations.AcceptedCommandsComplete : Prop :=
  ∀ s : State, s.Inv → s.busy = true → (∀ e ∈ s.inputs, e.notReset = true) →
    ∃ k ≤ s.inputs.length + 1,
      (∃ t, Host.Core.run Sys2Proof.core k s = .next t ∧ t.busy = false ∧ t.done = true) ∨
      ∃ e, Host.Core.run Sys2Proof.core k s = .fault (.busError e)

/-- R282: a completion and a W1C write of DONE in either order. With the write first it clears nothing and the completion
sets DONE; with the completion first DONE is set and then cleared. -/
def Obligations.CompletionAndStatusWriteInEitherOrder : Prop :=
  ∀ (s : State) (p v : Word) (rest : List Input), s.resetLine = false → s.busy = true → s.done = false →
    s.pending = some p → v.getLsbD 1 = true →
    (s.inputs = .record (busRecord 1 0x004 v) :: .engine :: rest →
      ∃ t u, step s = .next t ∧ t.done = false ∧ step t = .next u ∧ u.done = true) ∧
    (s.inputs = .engine :: .record (busRecord 1 0x004 v) :: rest →
      ∃ t u, step s = .next t ∧ t.done = true ∧ step t = .next u ∧ u.done = false)

/-! ## Several instances -/

/-- Instances share nothing (R257): a step of one leaves every other as it was, and an address is addressed to at most one
instance (R10, R80, R81, R286). -/
def Obligations.InstancesShareNothing : Prop :=
  (∀ (p q : Platform) (k j : Nat), p.stepAt k = .next q → j ≠ k → q.instances[j]? = p.instances[j]?) ∧
  ∀ p : Platform, p.wf → ∀ addr, (p.addressed addr).length ≤ 1
end

