-- ==== Sys2Proof/Laws/PerInstr.lean ====
section
/-! SUPPORT. Facts about every instruction as syntax, one lemma per constructor.

`Fields`: the encoder puts each instruction's fields where its format has them (30_encoding.md R121, R128). -/

namespace Sys2Proof.Laws.Fields

open Sys2Proof

/-- A command's word has RSV = 0, a mapped OPC, and REV = 1 for XFORM.REV alone. -/
abbrev WordFormat (i : Instr) (w : Word) : Prop :=
  rsvField w = 0 ∧ (revField w = 1 ↔ i = .xformRev) ∧ 1 ≤ (opcField w).toNat ∧ (opcField w).toNat ≤ 7

/-- A transaction's record has WE, OFF and DATA in their places. -/
abbrev RecordFormat (i : Instr) (r : BitVec 54) : Prop :=
  (r.extractLsb' 53 1 = 0 ∧ i = .rd32 (r.extractLsb' 32 21).toNat ∧ r.extractLsb' 0 32 = 0) ∨
    (r.extractLsb' 53 1 = 1 ∧ i = .wr32 (r.extractLsb' 32 21).toNat (r.extractLsb' 0 32))

/-- An encoded instruction has its format's fields. -/
def Format (i : Instr) : Encoded → Prop
  | .cmd w => WordFormat i w
  | .bus r => RecordFormat i r

/-- Every well-formed instruction is encoded with its fields in their places. -/
def Statement (i : Instr) : Prop := i.wf = true → Format i (encode i)

theorem tblinit : Statement .tblinit := fun _ => show WordFormat _ (commandWord 0x01 0) by decide
theorem expkey : Statement .expkey := fun _ => show WordFormat _ (commandWord 0x02 0) by decide
theorem xform : Statement .xform := fun _ => show WordFormat _ (commandWord 0x03 0) by decide
theorem xformRev : Statement .xformRev := fun _ => show WordFormat _ (commandWord 0x03 1) by decide
theorem hinit : Statement .hinit := fun _ => show WordFormat _ (commandWord 0x04 0) by decide
theorem hcomp : Statement .hcomp := fun _ => show WordFormat _ (commandWord 0x05 0) by decide
theorem hchunk : Statement .hchunk := fun _ => show WordFormat _ (commandWord 0x06 0) by decide
theorem hdigest : Statement .hdigest := fun _ => show WordFormat _ (commandWord 0x07 0) by decide

/-- WE of a record. -/
theorem we_busRecord (we : BitVec 1) (off : Nat) (data : Word) : (busRecord we off data).extractLsb' 53 1 = we := by
  apply BitVec.eq_of_getLsbD_eq
  intro i hi
  have : i = 0 := by omega
  subst this
  simp [busRecord]

/-- OFF of a record. -/
theorem off_busRecord (we : BitVec 1) (off : Nat) (data : Word) :
    (busRecord we off data).extractLsb' 32 21 = BitVec.ofNat 21 off := by
  apply BitVec.eq_of_getLsbD_eq
  intro i hi
  simp only [busRecord, BitVec.getLsbD_extractLsb', BitVec.getLsbD_or, BitVec.getLsbD_shiftLeft, BitVec.getLsbD_setWidth]
  grind

/-- DATA of a record. -/
theorem data_busRecord (we : BitVec 1) (off : Nat) (data : Word) :
    (busRecord we off data).extractLsb' 0 32 = data := by
  apply BitVec.eq_of_getLsbD_eq
  intro i hi
  simp only [busRecord, BitVec.getLsbD_extractLsb', BitVec.getLsbD_or, BitVec.getLsbD_shiftLeft, BitVec.getLsbD_setWidth]
  grind

/-- An offset of the window fits its field. -/
theorem toNat_off (off : Nat) (h : offsetInWindow off = true) : (BitVec.ofNat 21 off).toNat = off := by
  simp only [offsetInWindow, decide_eq_true_eq] at h
  simp only [BitVec.toNat_ofNat]
  omega

theorem rd32 (off : Nat) : Statement (.rd32 off) := by
  intro h
  refine .inl ⟨we_busRecord _ _ _, ?_, data_busRecord _ _ _⟩
  rw [off_busRecord, toNat_off off h]

theorem wr32 (off : Nat) (data : Word) : Statement (.wr32 off data) := by
  intro h
  refine .inr ⟨we_busRecord _ _ _, ?_⟩
  rw [off_busRecord, toNat_off off h, data_busRecord]

end Sys2Proof.Laws.Fields
end

