-- ==== Sys2Proof/Laws/Assembler.lean ====
section
/-! SUPPORT. What a statement of the assembler gives: its own transaction, or nothing. -/

namespace Sys2Proof.Machine

/-- An accepted place lies in the window. -/
theorem Place.offsetInWindow_of_wf (p : Place) (h : p.wf = true) : offsetInWindow p.offset = true := by
  unfold Place.wf at h
  split at h
  · simp only [Bool.and_eq_true] at h
    exact h.2
  · exact h

/-- An accepted statement's instruction is well formed. -/
theorem Stmt.instr_wf (st : Stmt) (h : st.wf = true) : st.instr.wf = true := by
  cases st <;> exact Place.offsetInWindow_of_wf _ h

/-- A statement has a record exactly when it is accepted. -/
theorem Stmt.record_isSome (st : Stmt) : st.record.isSome = st.wf := by
  unfold Stmt.record
  cases st.wf <;> rfl

/-- The record of a statement decodes to the statement's transaction: no bit of its offset is lost. -/
theorem Stmt.decodeRecord_of_record (st : Stmt) (r : BitVec 54) (h : st.record = some r) : decodeRecord r = st.instr := by
  have hw : st.wf = true := by rw [← st.record_isSome, h]; rfl
  have hi := st.instr_wf hw
  simp only [Stmt.record, hw, if_true, Option.some.injEq] at h
  subst h
  cases st with
  | rd p =>
    simp only [Stmt.fields, Stmt.instr, decodeRecord, Laws.Fields.we_busRecord, Laws.Fields.off_busRecord]
    rw [if_neg (by decide), Laws.Fields.toNat_off _ hi]
  | wr p v =>
    simp only [Stmt.fields, Stmt.instr, decodeRecord, Laws.Fields.we_busRecord, Laws.Fields.off_busRecord,
      Laws.Fields.data_busRecord]
    rw [if_pos trivial, Laws.Fields.toNat_off _ hi]

end Sys2Proof.Machine
end

