-- ==== Sys2Proof/Laws/Bits.lean ====
section
/-! SUPPORT. The lemmas of the word and byte-string helpers. -/

namespace Sys2Proof.Machine

/-- A word file's word is the list's item. -/
@[simp] theorem getElem_wordFile (n : Nat) (ws : List Word) (i : Nat) (h : i < n) :
    (wordFile n ws)[i] = ws.getD i 0 := by
  simp [wordFile]

/-- A word file of a list of the right length lists it. -/
theorem toList_wordFile (n : Nat) (ws : List Word) (h : ws.length = n) : (wordFile n ws).toList = ws := by
  apply List.ext_getElem
  · simp [h]
  · intro i h1 h2
    simp [wordFile, h2]

@[simp] theorem length_bytesOfWord (w : Word) : (bytesOfWord w).length = 4 := rfl

@[simp] theorem length_be64 (v : BitVec 64) : (be64 v).length = 8 := rfl

/-- Rotation by the core's formula is the library's rotation, for every amount the core uses. -/
theorem rotl_eq_rotateLeft (x : Word) (n : Nat) (h : n < 32) : rotl x n = x.rotateLeft n := by
  rw [rotl, BitVec.rotateLeft_eq_rotateLeftAux_of_lt h]
  rfl

/-- One bit of a rotated word. -/
theorem getLsbD_rotl (x : Word) (n : Nat) (h : n < 32) (i : Nat) :
    (rotl x n).getLsbD i = if i < n then x.getLsbD (32 - n + i) else (decide (i < 32) && x.getLsbD (i - n)) := by
  simp only [rotl, BitVec.getLsbD_or, BitVec.getLsbD_shiftLeft, BitVec.getLsbD_ushiftRight]
  by_cases h1 : i < n
  · simp [h1]
  · have : 32 ≤ 32 - n + i := by omega
    simp [h1, BitVec.getLsbD_of_ge x _ this]

/-- Rotation distributes over XOR. -/
theorem rotl_xor (x y : Word) (n : Nat) : rotl (x ^^^ y) n = rotl x n ^^^ rotl y n := by
  ext i
  simp only [rotl, BitVec.getElem_or, BitVec.getElem_xor, BitVec.getElem_shiftLeft, BitVec.getElem_ushiftRight,
    BitVec.getLsbD_xor]
  by_cases h1 : i < n
  · simp [h1]
  · have : 32 ≤ 32 - n + i := by omega
    simp [h1, BitVec.getLsbD_of_ge x _ this, BitVec.getLsbD_of_ge y _ this]

/-- A word is its four bytes in lanes. -/
theorem be32_byteLanes (w : Word) : be32 (byteLane 3 w) (byteLane 2 w) (byteLane 1 w) (byteLane 0 w) = w := by
  apply BitVec.eq_of_getLsbD_eq
  intro i hi
  simp only [be32, intoLane, byteLane, BitVec.getLsbD_or, BitVec.getLsbD_shiftLeft, BitVec.getLsbD_setWidth,
    BitVec.getLsbD_extractLsb']
  rcases (by omega : i < 8 ∨ (8 ≤ i ∧ i < 16) ∨ (16 ≤ i ∧ i < 24) ∨ (24 ≤ i)) with h | h | h | h <;> grind

/-- The bytes of a word in lanes are those bytes. -/
theorem byteLane_be32 (b0 b1 b2 b3 : Byte) :
    byteLane 3 (be32 b0 b1 b2 b3) = b0 ∧ byteLane 2 (be32 b0 b1 b2 b3) = b1 ∧
      byteLane 1 (be32 b0 b1 b2 b3) = b2 ∧ byteLane 0 (be32 b0 b1 b2 b3) = b3 := by
  refine ⟨?_, ?_, ?_, ?_⟩ <;>
  · apply BitVec.eq_of_getLsbD_eq
    intro i hi
    simp only [be32, intoLane, byteLane, BitVec.getLsbD_or, BitVec.getLsbD_shiftLeft, BitVec.getLsbD_setWidth,
      BitVec.getLsbD_extractLsb']
    grind

end Sys2Proof.Machine
end

