-- ==== Sys2Proof/Laws/State.lean ====
section
/-! SUPPORT. One lemma per field per update of State, so that no proof unfolds a record update. -/

namespace Sys2Proof.Machine

variable (s : State)

/-! ### accept -/

@[simp] theorem State.accept_cmdLast (v : Word) : (s.accept v).cmdLast = v := rfl
@[simp] theorem State.accept_pending (v : Word) : (s.accept v).pending = some v := rfl
@[simp] theorem State.accept_busy (v : Word) : (s.accept v).busy = true := rfl
@[simp] theorem State.accept_done (v : Word) : (s.accept v).done = false := rfl
@[simp] theorem State.accept_errcode (v : Word) : (s.accept v).errcode = .none := rfl
@[simp] theorem State.accept_tblValid (v : Word) : (s.accept v).tblValid = s.tblValid := rfl
@[simp] theorem State.accept_hz (v : Word) : (s.accept v).hz = s.hz := rfl
@[simp] theorem State.accept_ie (v : Word) : (s.accept v).ie = s.ie := rfl
@[simp] theorem State.accept_keylen (v : Word) : (s.accept v).keylen = s.keylen := rfl
@[simp] theorem State.accept_blklen (v : Word) : (s.accept v).blklen = s.blklen := rfl
@[simp] theorem State.accept_mblen (v : Word) : (s.accept v).mblen = s.mblen := rfl
@[simp] theorem State.accept_msglen (v : Word) : (s.accept v).msglen = s.msglen := rfl
@[simp] theorem State.accept_chunkidx (v : Word) : (s.accept v).chunkidx = s.chunkidx := rfl
@[simp] theorem State.accept_key (v : Word) : (s.accept v).key = s.key := rfl
@[simp] theorem State.accept_din (v : Word) : (s.accept v).din = s.din := rfl
@[simp] theorem State.accept_dout (v : Word) : (s.accept v).dout = s.dout := rfl
@[simp] theorem State.accept_rk (v : Word) : (s.accept v).rk = s.rk := rfl
@[simp] theorem State.accept_hstate (v : Word) : (s.accept v).hstate = s.hstate := rfl
@[simp] theorem State.accept_mb (v : Word) : (s.accept v).mb = s.mb := rfl
@[simp] theorem State.accept_tbl (v : Word) : (s.accept v).tbl = s.tbl := rfl
@[simp] theorem State.accept_msgmem (v : Word) : (s.accept v).msgmem = s.msgmem := rfl
@[simp] theorem State.accept_params (v : Word) : (s.accept v).params = s.params := rfl
@[simp] theorem State.accept_resetLine (v : Word) : (s.accept v).resetLine = s.resetLine := rfl
@[simp] theorem State.accept_inputs (v : Word) : (s.accept v).inputs = s.inputs := rfl
@[simp] theorem State.accept_rdata (v : Word) : (s.accept v).rdata = s.rdata := rfl
@[simp] theorem State.accept_resets (v : Word) : (s.accept v).resets = s.resets := rfl

/-! ### commit -/

@[simp] theorem State.commit_cmdLast : (s.commit).cmdLast = s.cmdLast := rfl
@[simp] theorem State.commit_pending : (s.commit).pending = none := rfl
@[simp] theorem State.commit_busy : (s.commit).busy = false := rfl
@[simp] theorem State.commit_done : (s.commit).done = true := rfl
@[simp] theorem State.commit_errcode : (s.commit).errcode = .none := rfl
@[simp] theorem State.commit_tblValid : (s.commit).tblValid = s.tblValid := rfl
@[simp] theorem State.commit_hz : (s.commit).hz = s.hz := rfl
@[simp] theorem State.commit_ie : (s.commit).ie = s.ie := rfl
@[simp] theorem State.commit_keylen : (s.commit).keylen = s.keylen := rfl
@[simp] theorem State.commit_blklen : (s.commit).blklen = s.blklen := rfl
@[simp] theorem State.commit_mblen : (s.commit).mblen = s.mblen := rfl
@[simp] theorem State.commit_msglen : (s.commit).msglen = s.msglen := rfl
@[simp] theorem State.commit_chunkidx : (s.commit).chunkidx = s.chunkidx := rfl
@[simp] theorem State.commit_key : (s.commit).key = s.key := rfl
@[simp] theorem State.commit_din : (s.commit).din = s.din := rfl
@[simp] theorem State.commit_dout : (s.commit).dout = s.dout := rfl
@[simp] theorem State.commit_rk : (s.commit).rk = s.rk := rfl
@[simp] theorem State.commit_hstate : (s.commit).hstate = s.hstate := rfl
@[simp] theorem State.commit_mb : (s.commit).mb = s.mb := rfl
@[simp] theorem State.commit_tbl : (s.commit).tbl = s.tbl := rfl
@[simp] theorem State.commit_msgmem : (s.commit).msgmem = s.msgmem := rfl
@[simp] theorem State.commit_params : (s.commit).params = s.params := rfl
@[simp] theorem State.commit_resetLine : (s.commit).resetLine = s.resetLine := rfl
@[simp] theorem State.commit_inputs : (s.commit).inputs = s.inputs := rfl
@[simp] theorem State.commit_rdata : (s.commit).rdata = s.rdata := rfl
@[simp] theorem State.commit_resets : (s.commit).resets = s.resets := rfl

/-! ### raiseError -/

@[simp] theorem State.raiseError_cmdLast (c : ErrCode) : (s.raiseError c).cmdLast = s.cmdLast := rfl
@[simp] theorem State.raiseError_pending (c : ErrCode) : (s.raiseError c).pending = none := rfl
@[simp] theorem State.raiseError_busy (c : ErrCode) : (s.raiseError c).busy = false := rfl
@[simp] theorem State.raiseError_done (c : ErrCode) : (s.raiseError c).done = true := rfl
@[simp] theorem State.raiseError_errcode (c : ErrCode) : (s.raiseError c).errcode = c := rfl
@[simp] theorem State.raiseError_tblValid (c : ErrCode) : (s.raiseError c).tblValid = s.tblValid := rfl
@[simp] theorem State.raiseError_hz (c : ErrCode) : (s.raiseError c).hz = s.hz := rfl
@[simp] theorem State.raiseError_ie (c : ErrCode) : (s.raiseError c).ie = s.ie := rfl
@[simp] theorem State.raiseError_keylen (c : ErrCode) : (s.raiseError c).keylen = s.keylen := rfl
@[simp] theorem State.raiseError_blklen (c : ErrCode) : (s.raiseError c).blklen = s.blklen := rfl
@[simp] theorem State.raiseError_mblen (c : ErrCode) : (s.raiseError c).mblen = s.mblen := rfl
@[simp] theorem State.raiseError_msglen (c : ErrCode) : (s.raiseError c).msglen = s.msglen := rfl
@[simp] theorem State.raiseError_chunkidx (c : ErrCode) : (s.raiseError c).chunkidx = s.chunkidx := rfl
@[simp] theorem State.raiseError_key (c : ErrCode) : (s.raiseError c).key = s.key := rfl
@[simp] theorem State.raiseError_din (c : ErrCode) : (s.raiseError c).din = s.din := rfl
@[simp] theorem State.raiseError_dout (c : ErrCode) : (s.raiseError c).dout = s.dout := rfl
@[simp] theorem State.raiseError_rk (c : ErrCode) : (s.raiseError c).rk = s.rk := rfl
@[simp] theorem State.raiseError_hstate (c : ErrCode) : (s.raiseError c).hstate = s.hstate := rfl
@[simp] theorem State.raiseError_mb (c : ErrCode) : (s.raiseError c).mb = s.mb := rfl
@[simp] theorem State.raiseError_tbl (c : ErrCode) : (s.raiseError c).tbl = s.tbl := rfl
@[simp] theorem State.raiseError_msgmem (c : ErrCode) : (s.raiseError c).msgmem = s.msgmem := rfl
@[simp] theorem State.raiseError_params (c : ErrCode) : (s.raiseError c).params = s.params := rfl
@[simp] theorem State.raiseError_resetLine (c : ErrCode) : (s.raiseError c).resetLine = s.resetLine := rfl
@[simp] theorem State.raiseError_inputs (c : ErrCode) : (s.raiseError c).inputs = s.inputs := rfl
@[simp] theorem State.raiseError_rdata (c : ErrCode) : (s.raiseError c).rdata = s.rdata := rfl
@[simp] theorem State.raiseError_resets (c : ErrCode) : (s.raiseError c).resets = s.resets := rfl

/-! ### ensureTable -/

@[simp] theorem State.ensureTable_cmdLast : (s.ensureTable).cmdLast = s.cmdLast := rfl
@[simp] theorem State.ensureTable_pending : (s.ensureTable).pending = s.pending := rfl
@[simp] theorem State.ensureTable_busy : (s.ensureTable).busy = s.busy := rfl
@[simp] theorem State.ensureTable_done : (s.ensureTable).done = s.done := rfl
@[simp] theorem State.ensureTable_errcode : (s.ensureTable).errcode = s.errcode := rfl
@[simp] theorem State.ensureTable_tblValid : (s.ensureTable).tblValid = true := rfl
@[simp] theorem State.ensureTable_hz : (s.ensureTable).hz = s.hz := rfl
@[simp] theorem State.ensureTable_ie : (s.ensureTable).ie = s.ie := rfl
@[simp] theorem State.ensureTable_keylen : (s.ensureTable).keylen = s.keylen := rfl
@[simp] theorem State.ensureTable_blklen : (s.ensureTable).blklen = s.blklen := rfl
@[simp] theorem State.ensureTable_mblen : (s.ensureTable).mblen = s.mblen := rfl
@[simp] theorem State.ensureTable_msglen : (s.ensureTable).msglen = s.msglen := rfl
@[simp] theorem State.ensureTable_chunkidx : (s.ensureTable).chunkidx = s.chunkidx := rfl
@[simp] theorem State.ensureTable_key : (s.ensureTable).key = s.key := rfl
@[simp] theorem State.ensureTable_din : (s.ensureTable).din = s.din := rfl
@[simp] theorem State.ensureTable_dout : (s.ensureTable).dout = s.dout := rfl
@[simp] theorem State.ensureTable_rk : (s.ensureTable).rk = s.rk := rfl
@[simp] theorem State.ensureTable_hstate : (s.ensureTable).hstate = s.hstate := rfl
@[simp] theorem State.ensureTable_mb : (s.ensureTable).mb = s.mb := rfl
@[simp] theorem State.ensureTable_tbl : (s.ensureTable).tbl = if s.tblValid then s.tbl else combinedTable := rfl
@[simp] theorem State.ensureTable_msgmem : (s.ensureTable).msgmem = s.msgmem := rfl
@[simp] theorem State.ensureTable_params : (s.ensureTable).params = s.params := rfl
@[simp] theorem State.ensureTable_resetLine : (s.ensureTable).resetLine = s.resetLine := rfl
@[simp] theorem State.ensureTable_inputs : (s.ensureTable).inputs = s.inputs := rfl
@[simp] theorem State.ensureTable_rdata : (s.ensureTable).rdata = s.rdata := rfl
@[simp] theorem State.ensureTable_resets : (s.ensureTable).resets = s.resets := rfl

/-! ### writeStatus -/

@[simp] theorem State.writeStatus_cmdLast (v : Word) : (s.writeStatus v).cmdLast = s.cmdLast := rfl
@[simp] theorem State.writeStatus_pending (v : Word) : (s.writeStatus v).pending = s.pending := rfl
@[simp] theorem State.writeStatus_busy (v : Word) : (s.writeStatus v).busy = s.busy := rfl
@[simp] theorem State.writeStatus_done (v : Word) : (s.writeStatus v).done = (s.done && !v.getLsbD 1) := rfl
@[simp] theorem State.writeStatus_errcode (v : Word) : (s.writeStatus v).errcode = s.errcode := rfl
@[simp] theorem State.writeStatus_tblValid (v : Word) : (s.writeStatus v).tblValid = s.tblValid := rfl
@[simp] theorem State.writeStatus_hz (v : Word) : (s.writeStatus v).hz = (s.hz && !v.getLsbD 9) := rfl
@[simp] theorem State.writeStatus_ie (v : Word) : (s.writeStatus v).ie = s.ie := rfl
@[simp] theorem State.writeStatus_keylen (v : Word) : (s.writeStatus v).keylen = s.keylen := rfl
@[simp] theorem State.writeStatus_blklen (v : Word) : (s.writeStatus v).blklen = s.blklen := rfl
@[simp] theorem State.writeStatus_mblen (v : Word) : (s.writeStatus v).mblen = s.mblen := rfl
@[simp] theorem State.writeStatus_msglen (v : Word) : (s.writeStatus v).msglen = s.msglen := rfl
@[simp] theorem State.writeStatus_chunkidx (v : Word) : (s.writeStatus v).chunkidx = s.chunkidx := rfl
@[simp] theorem State.writeStatus_key (v : Word) : (s.writeStatus v).key = s.key := rfl
@[simp] theorem State.writeStatus_din (v : Word) : (s.writeStatus v).din = s.din := rfl
@[simp] theorem State.writeStatus_dout (v : Word) : (s.writeStatus v).dout = s.dout := rfl
@[simp] theorem State.writeStatus_rk (v : Word) : (s.writeStatus v).rk = s.rk := rfl
@[simp] theorem State.writeStatus_hstate (v : Word) : (s.writeStatus v).hstate = s.hstate := rfl
@[simp] theorem State.writeStatus_mb (v : Word) : (s.writeStatus v).mb = s.mb := rfl
@[simp] theorem State.writeStatus_tbl (v : Word) : (s.writeStatus v).tbl = s.tbl := rfl
@[simp] theorem State.writeStatus_msgmem (v : Word) : (s.writeStatus v).msgmem = s.msgmem := rfl
@[simp] theorem State.writeStatus_params (v : Word) : (s.writeStatus v).params = s.params := rfl
@[simp] theorem State.writeStatus_resetLine (v : Word) : (s.writeStatus v).resetLine = s.resetLine := rfl
@[simp] theorem State.writeStatus_inputs (v : Word) : (s.writeStatus v).inputs = s.inputs := rfl
@[simp] theorem State.writeStatus_rdata (v : Word) : (s.writeStatus v).rdata = s.rdata := rfl
@[simp] theorem State.writeStatus_resets (v : Word) : (s.writeStatus v).resets = s.resets := rfl

/-! ### writeCtrl -/

@[simp] theorem State.writeCtrl_cmdLast (v : Word) : (s.writeCtrl v).cmdLast = s.cmdLast := rfl
@[simp] theorem State.writeCtrl_pending (v : Word) : (s.writeCtrl v).pending = s.pending := rfl
@[simp] theorem State.writeCtrl_busy (v : Word) : (s.writeCtrl v).busy = s.busy := rfl
@[simp] theorem State.writeCtrl_done (v : Word) : (s.writeCtrl v).done = s.done := rfl
@[simp] theorem State.writeCtrl_errcode (v : Word) : (s.writeCtrl v).errcode = s.errcode := rfl
@[simp] theorem State.writeCtrl_tblValid (v : Word) : (s.writeCtrl v).tblValid = s.tblValid := rfl
@[simp] theorem State.writeCtrl_hz (v : Word) : (s.writeCtrl v).hz = s.hz := rfl
@[simp] theorem State.writeCtrl_ie (v : Word) : (s.writeCtrl v).ie = v.getLsbD 0 := rfl
@[simp] theorem State.writeCtrl_keylen (v : Word) : (s.writeCtrl v).keylen = s.keylen := rfl
@[simp] theorem State.writeCtrl_blklen (v : Word) : (s.writeCtrl v).blklen = s.blklen := rfl
@[simp] theorem State.writeCtrl_mblen (v : Word) : (s.writeCtrl v).mblen = s.mblen := rfl
@[simp] theorem State.writeCtrl_msglen (v : Word) : (s.writeCtrl v).msglen = s.msglen := rfl
@[simp] theorem State.writeCtrl_chunkidx (v : Word) : (s.writeCtrl v).chunkidx = s.chunkidx := rfl
@[simp] theorem State.writeCtrl_key (v : Word) : (s.writeCtrl v).key = s.key := rfl
@[simp] theorem State.writeCtrl_din (v : Word) : (s.writeCtrl v).din = s.din := rfl
@[simp] theorem State.writeCtrl_dout (v : Word) : (s.writeCtrl v).dout = s.dout := rfl
@[simp] theorem State.writeCtrl_rk (v : Word) : (s.writeCtrl v).rk = s.rk := rfl
@[simp] theorem State.writeCtrl_hstate (v : Word) : (s.writeCtrl v).hstate = s.hstate := rfl
@[simp] theorem State.writeCtrl_mb (v : Word) : (s.writeCtrl v).mb = s.mb := rfl
@[simp] theorem State.writeCtrl_tbl (v : Word) : (s.writeCtrl v).tbl = s.tbl := rfl
@[simp] theorem State.writeCtrl_msgmem (v : Word) : (s.writeCtrl v).msgmem = s.msgmem := rfl
@[simp] theorem State.writeCtrl_params (v : Word) : (s.writeCtrl v).params = s.params := rfl
@[simp] theorem State.writeCtrl_resetLine (v : Word) : (s.writeCtrl v).resetLine = s.resetLine := rfl
@[simp] theorem State.writeCtrl_inputs (v : Word) : (s.writeCtrl v).inputs = s.inputs := rfl
@[simp] theorem State.writeCtrl_rdata (v : Word) : (s.writeCtrl v).rdata = s.rdata := rfl
@[simp] theorem State.writeCtrl_resets (v : Word) : (s.writeCtrl v).resets = s.resets := rfl

/-! ### dropWrite -/

@[simp] theorem State.dropWrite_cmdLast : (s.dropWrite).cmdLast = s.cmdLast := rfl
@[simp] theorem State.dropWrite_pending : (s.dropWrite).pending = s.pending := rfl
@[simp] theorem State.dropWrite_busy : (s.dropWrite).busy = s.busy := rfl
@[simp] theorem State.dropWrite_done : (s.dropWrite).done = s.done := rfl
@[simp] theorem State.dropWrite_errcode : (s.dropWrite).errcode = s.errcode := rfl
@[simp] theorem State.dropWrite_tblValid : (s.dropWrite).tblValid = s.tblValid := rfl
@[simp] theorem State.dropWrite_hz : (s.dropWrite).hz = true := rfl
@[simp] theorem State.dropWrite_ie : (s.dropWrite).ie = s.ie := rfl
@[simp] theorem State.dropWrite_keylen : (s.dropWrite).keylen = s.keylen := rfl
@[simp] theorem State.dropWrite_blklen : (s.dropWrite).blklen = s.blklen := rfl
@[simp] theorem State.dropWrite_mblen : (s.dropWrite).mblen = s.mblen := rfl
@[simp] theorem State.dropWrite_msglen : (s.dropWrite).msglen = s.msglen := rfl
@[simp] theorem State.dropWrite_chunkidx : (s.dropWrite).chunkidx = s.chunkidx := rfl
@[simp] theorem State.dropWrite_key : (s.dropWrite).key = s.key := rfl
@[simp] theorem State.dropWrite_din : (s.dropWrite).din = s.din := rfl
@[simp] theorem State.dropWrite_dout : (s.dropWrite).dout = s.dout := rfl
@[simp] theorem State.dropWrite_rk : (s.dropWrite).rk = s.rk := rfl
@[simp] theorem State.dropWrite_hstate : (s.dropWrite).hstate = s.hstate := rfl
@[simp] theorem State.dropWrite_mb : (s.dropWrite).mb = s.mb := rfl
@[simp] theorem State.dropWrite_tbl : (s.dropWrite).tbl = s.tbl := rfl
@[simp] theorem State.dropWrite_msgmem : (s.dropWrite).msgmem = s.msgmem := rfl
@[simp] theorem State.dropWrite_params : (s.dropWrite).params = s.params := rfl
@[simp] theorem State.dropWrite_resetLine : (s.dropWrite).resetLine = s.resetLine := rfl
@[simp] theorem State.dropWrite_inputs : (s.dropWrite).inputs = s.inputs := rfl
@[simp] theorem State.dropWrite_rdata : (s.dropWrite).rdata = s.rdata := rfl
@[simp] theorem State.dropWrite_resets : (s.dropWrite).resets = s.resets := rfl

/-! ### writeMsgWord -/

@[simp] theorem State.writeMsgWord_cmdLast (a : Nat) (v : Word) : (s.writeMsgWord a v).cmdLast = s.cmdLast := rfl
@[simp] theorem State.writeMsgWord_pending (a : Nat) (v : Word) : (s.writeMsgWord a v).pending = s.pending := rfl
@[simp] theorem State.writeMsgWord_busy (a : Nat) (v : Word) : (s.writeMsgWord a v).busy = s.busy := rfl
@[simp] theorem State.writeMsgWord_done (a : Nat) (v : Word) : (s.writeMsgWord a v).done = s.done := rfl
@[simp] theorem State.writeMsgWord_errcode (a : Nat) (v : Word) : (s.writeMsgWord a v).errcode = s.errcode := rfl
@[simp] theorem State.writeMsgWord_tblValid (a : Nat) (v : Word) : (s.writeMsgWord a v).tblValid = s.tblValid := rfl
@[simp] theorem State.writeMsgWord_hz (a : Nat) (v : Word) : (s.writeMsgWord a v).hz = s.hz := rfl
@[simp] theorem State.writeMsgWord_ie (a : Nat) (v : Word) : (s.writeMsgWord a v).ie = s.ie := rfl
@[simp] theorem State.writeMsgWord_keylen (a : Nat) (v : Word) : (s.writeMsgWord a v).keylen = s.keylen := rfl
@[simp] theorem State.writeMsgWord_blklen (a : Nat) (v : Word) : (s.writeMsgWord a v).blklen = s.blklen := rfl
@[simp] theorem State.writeMsgWord_mblen (a : Nat) (v : Word) : (s.writeMsgWord a v).mblen = s.mblen := rfl
@[simp] theorem State.writeMsgWord_msglen (a : Nat) (v : Word) : (s.writeMsgWord a v).msglen = s.msglen := rfl
@[simp] theorem State.writeMsgWord_chunkidx (a : Nat) (v : Word) : (s.writeMsgWord a v).chunkidx = s.chunkidx := rfl
@[simp] theorem State.writeMsgWord_key (a : Nat) (v : Word) : (s.writeMsgWord a v).key = s.key := rfl
@[simp] theorem State.writeMsgWord_din (a : Nat) (v : Word) : (s.writeMsgWord a v).din = s.din := rfl
@[simp] theorem State.writeMsgWord_dout (a : Nat) (v : Word) : (s.writeMsgWord a v).dout = s.dout := rfl
@[simp] theorem State.writeMsgWord_rk (a : Nat) (v : Word) : (s.writeMsgWord a v).rk = s.rk := rfl
@[simp] theorem State.writeMsgWord_hstate (a : Nat) (v : Word) : (s.writeMsgWord a v).hstate = s.hstate := rfl
@[simp] theorem State.writeMsgWord_mb (a : Nat) (v : Word) : (s.writeMsgWord a v).mb = s.mb := rfl
@[simp] theorem State.writeMsgWord_tbl (a : Nat) (v : Word) : (s.writeMsgWord a v).tbl = s.tbl := rfl
@[simp] theorem State.writeMsgWord_msgmem (a : Nat) (v : Word) : (s.writeMsgWord a v).msgmem = Memory.writeBytes s.msgmem a (bytesOfWord v) := rfl
@[simp] theorem State.writeMsgWord_params (a : Nat) (v : Word) : (s.writeMsgWord a v).params = s.params := rfl
@[simp] theorem State.writeMsgWord_resetLine (a : Nat) (v : Word) : (s.writeMsgWord a v).resetLine = s.resetLine := rfl
@[simp] theorem State.writeMsgWord_inputs (a : Nat) (v : Word) : (s.writeMsgWord a v).inputs = s.inputs := rfl
@[simp] theorem State.writeMsgWord_rdata (a : Nat) (v : Word) : (s.writeMsgWord a v).rdata = s.rdata := rfl
@[simp] theorem State.writeMsgWord_resets (a : Nat) (v : Word) : (s.writeMsgWord a v).resets = s.resets := rfl

/-! ### popInput -/

@[simp] theorem State.popInput_cmdLast : (s.popInput).cmdLast = s.cmdLast := rfl
@[simp] theorem State.popInput_pending : (s.popInput).pending = s.pending := rfl
@[simp] theorem State.popInput_busy : (s.popInput).busy = s.busy := rfl
@[simp] theorem State.popInput_done : (s.popInput).done = s.done := rfl
@[simp] theorem State.popInput_errcode : (s.popInput).errcode = s.errcode := rfl
@[simp] theorem State.popInput_tblValid : (s.popInput).tblValid = s.tblValid := rfl
@[simp] theorem State.popInput_hz : (s.popInput).hz = s.hz := rfl
@[simp] theorem State.popInput_ie : (s.popInput).ie = s.ie := rfl
@[simp] theorem State.popInput_keylen : (s.popInput).keylen = s.keylen := rfl
@[simp] theorem State.popInput_blklen : (s.popInput).blklen = s.blklen := rfl
@[simp] theorem State.popInput_mblen : (s.popInput).mblen = s.mblen := rfl
@[simp] theorem State.popInput_msglen : (s.popInput).msglen = s.msglen := rfl
@[simp] theorem State.popInput_chunkidx : (s.popInput).chunkidx = s.chunkidx := rfl
@[simp] theorem State.popInput_key : (s.popInput).key = s.key := rfl
@[simp] theorem State.popInput_din : (s.popInput).din = s.din := rfl
@[simp] theorem State.popInput_dout : (s.popInput).dout = s.dout := rfl
@[simp] theorem State.popInput_rk : (s.popInput).rk = s.rk := rfl
@[simp] theorem State.popInput_hstate : (s.popInput).hstate = s.hstate := rfl
@[simp] theorem State.popInput_mb : (s.popInput).mb = s.mb := rfl
@[simp] theorem State.popInput_tbl : (s.popInput).tbl = s.tbl := rfl
@[simp] theorem State.popInput_msgmem : (s.popInput).msgmem = s.msgmem := rfl
@[simp] theorem State.popInput_params : (s.popInput).params = s.params := rfl
@[simp] theorem State.popInput_resetLine : (s.popInput).resetLine = s.resetLine := rfl
@[simp] theorem State.popInput_inputs : (s.popInput).inputs = s.inputs.tail := rfl
@[simp] theorem State.popInput_rdata : (s.popInput).rdata = s.rdata := rfl
@[simp] theorem State.popInput_resets : (s.popInput).resets = s.resets := rfl

/-! ### driveReset -/

/-- Releasing the reset line changes nothing else. -/
@[simp] theorem State.driveReset_false : s.driveReset false = { s with resetLine := false } := rfl

/-- Asserting the reset line gives the reset state, with the inputs kept and the line high. -/
@[simp] theorem State.driveReset_true :
    s.driveReset true = { State.resetWith s.params (s.resets + 1) with inputs := s.inputs, resetLine := true } := rfl

/-! ### complete -/

@[simp] theorem State.complete_ok (t : State) : s.complete (.ok t) = t.commit := rfl
@[simp] theorem State.complete_error (c : ErrCode) : s.complete (.error c) = s.raiseError c := rfl

end Sys2Proof.Machine
end

