-- ==== Sys2Proof/Laws/Commands.lean ====
section
/-! SUPPORT. What each pseudocode and each shared operation can do, said once. -/

namespace Sys2Proof.Machine

/-- A length check passes exactly on equal lengths. -/
theorem requireLength_eq (declared required : Word) :
    requireLength declared required = if declared = required then .ok () else .error .invalidLength := rfl

/-- A completion commits the pseudocode's state or raises its error. -/
theorem State.complete_cases (s : State) (r : Except ErrCode State) :
    (∃ t, r = .ok t ∧ s.complete r = t.commit) ∨ (∃ c, r = .error c ∧ s.complete r = s.raiseError c) := by
  cases r with
  | ok t => exact .inl ⟨t, rfl, rfl⟩
  | error c => exact .inr ⟨c, rfl, rfl⟩

/-- EXPKEY's pseudocode in one line. -/
theorem expkeyResult_eq (s : State) :
    expkeyResult s = if s.keylen = 16 then .ok { s with rk := expandKeyFn s.key } else .error .invalidLength := by
  simp only [expkeyResult, requireLength]
  split <;> rfl

/-- XFORM's pseudocode in one line. -/
theorem xformResult_eq (rev : Bool) (s : State) :
    xformResult rev s =
      if s.blklen = 16 then .ok { s.ensureTable with dout := transformResult rev s.ensureTable }
      else .error .invalidLength := by
  simp only [xformResult, requireLength]
  split <;> rfl

/-- HCOMP's pseudocode in one line. -/
theorem hcompResult_eq (s : State) :
    hcompResult s = if s.mblen = 64 then .ok { s with hstate := compressFn s.hstate s.mb } else .error .invalidLength := by
  simp only [hcompResult, requireLength]
  split <;> rfl

/-- HCHUNK's pseudocode in one line: MSG_TOO_LONG before CHUNK_RANGE. -/
theorem hchunkResult_eq (s : State) :
    hchunkResult s =
      if s.params.msgBytes < s.msglen.toNat then .error .msgTooLong
      else if nblkOf s.msglen ≤ s.chunkidx.toNat then .error .chunkRange
      else .ok { s with mb := chunkWords s.message s.chunkidx.toNat, mblen := 64 } := by
  simp only [hchunkResult, requireFits, requireChunk]
  split
  · rfl
  · split <;> rfl

/-- HDIGEST's pseudocode in one line. -/
theorem hdigestResult_eq (s : State) :
    hdigestResult s =
      if s.params.msgBytes < s.msglen.toNat then .error .msgTooLong
      else .ok { s with hstate := digestState s.message } := by
  simp only [hdigestResult, requireFits]
  split <;> rfl

/-- The table store after the lazy build, where its invariant holds, is the combined table. -/
theorem State.ensureTable_tbl_of_valid (s : State) (h : s.tblValid = true → s.tbl = combinedTable) :
    s.ensureTable.tbl = combinedTable := by
  simp only [State.ensureTable_tbl]
  split
  · exact h ‹_›
  · rfl

/-- Where an access is located: aligned, and at a location that exists. -/
theorem locate_ok (mb off : Nat) (l : Loc) : locate mb off = .ok l ↔ off % 4 = 0 ∧ locOf mb off = some l := by
  simp only [locate]
  by_cases h : off % 4 = 0
  · cases h2 : locOf mb off <;> simp [h]
  · simp [h]

/-- An access is not located when it is misaligned, or aligned at a reserved offset. -/
theorem locate_error (mb off : Nat) (e : BusError) :
    locate mb off = .error e ↔
      (off % 4 ≠ 0 ∧ e = .misaligned) ∨ (off % 4 = 0 ∧ locOf mb off = none ∧ e = .unmapped) := by
  simp only [locate]
  by_cases h : off % 4 = 0
  · cases h2 : locOf mb off <;> simp [h, eq_comm]
  · simp [h, eq_comm]

/-- A host read: the located word, or the bus error of the location or of the read. -/
theorem State.readAt_eq (s : State) (off : Nat) :
    s.readAt off = match locate s.params.msgBytes off with
      | .ok l => s.readLoc l
      | .error e => .error e := by
  simp only [State.readAt]
  cases locate s.params.msgBytes off <;> rfl

/-- A host write: the located write, or the bus error of the location or of a read-only location. -/
theorem State.writeAt_eq (s : State) (off : Nat) (v : Word) :
    s.writeAt off v = match locate s.params.msgBytes off with
      | .ok l => if l.readOnly then .error .readOnly else .ok (s.writeLoc l v)
      | .error e => .error e := by
  simp only [State.writeAt]
  cases locate s.params.msgBytes off <;> rfl

/-- What RD32 can do: return a word and change nothing else, or a bus error. -/
theorem execRd32_cases (off : Nat) (s : State) :
    (∃ v, s.readAt off = .ok v ∧ execRd32 off s = .next { s with rdata := some v }) ∨
      (∃ e, s.readAt off = .error e ∧ execRd32 off s = .fault (.busError e)) := by
  cases h : s.readAt off with
  | ok v => exact .inl ⟨v, rfl, by simp [execRd32, h]⟩
  | error e => exact .inr ⟨e, rfl, by simp [execRd32, h]⟩

/-- What WR32 can do: perform or drop the write at a location, or a bus error. -/
theorem execWr32_cases (off : Nat) (v : Word) (s : State) :
    (∃ l, locate s.params.msgBytes off = .ok l ∧ l.readOnly = false ∧ execWr32 off v s = .next (s.writeLoc l v)) ∨
      (∃ e, execWr32 off v s = .fault (.busError e)) := by
  rw [execWr32, State.writeAt_eq]
  cases h : locate s.params.msgBytes off with
  | error e => exact .inr ⟨e, rfl⟩
  | ok l =>
    cases hl : l.readOnly with
    | false => exact .inl ⟨l, rfl, hl, by simp [hl]⟩
    | true => exact .inr ⟨.readOnly, by simp [hl]⟩

/-- What a located write can do: STATUS and CTRL always, any other location by BUSY. -/
theorem State.writeLoc_cases (s : State) (l : Loc) (v : Word) :
    (l = .status ∧ s.writeLoc l v = s.writeStatus v) ∨ (l = .ctrl ∧ s.writeLoc l v = s.writeCtrl v) ∨
      (l ≠ .status ∧ l ≠ .ctrl ∧ s.busy = true ∧ s.writeLoc l v = s.dropWrite) ∨
      (l ≠ .status ∧ l ≠ .ctrl ∧ s.busy = false ∧ s.writeLoc l v = s.storeLoc l v) := by
  cases hb : s.busy <;> cases l <;> simp [State.writeLoc, hb]

end Sys2Proof.Machine
end

