-- ==== Sys2Proof/Laws/Locate.lean ====
section
/-! SUPPORT. Where the offsets of the register map go (20_memory.md R82 to R87), one lemma per region. -/

namespace Sys2Proof.Machine

variable (mb off : Nat)

/-- The control and status registers. -/
theorem locOf_control (h : off < 0x040) : locOf mb off = controlLoc off := by rw [locOf, if_pos h]

/-- An index from its offset. -/
theorem fin_ofNat_div (n base : Nat) [NeZero n] (j : Fin n) (h : off = base + 4 * j.val) :
    Fin.ofNat n ((off - base) / 4) = j := by
  subst h
  apply Fin.ext
  have h1 : (base + 4 * j.val - base) / 4 = j.val := by omega
  rw [Fin.val_ofNat, h1, Nat.mod_eq_of_lt j.isLt]

/-- KEY_j. -/
theorem locOf_key (j : Fin 4) (h : off = 0x040 + 4 * j.val) : locOf mb off = some (.key j) := by
  rw [locOf]
  iterate 1 rw [if_neg (by omega)]
  rw [if_pos (by omega), fin_ofNat_div off 4 0x040 j h]

/-- DIN_j. -/
theorem locOf_din (j : Fin 4) (h : off = 0x050 + 4 * j.val) : locOf mb off = some (.din j) := by
  rw [locOf]
  iterate 2 rw [if_neg (by omega)]
  rw [if_pos (by omega), fin_ofNat_div off 4 0x050 j h]

/-- DOUT_j. -/
theorem locOf_dout (j : Fin 4) (h : off = 0x060 + 4 * j.val) : locOf mb off = some (.dout j) := by
  rw [locOf]
  iterate 3 rw [if_neg (by omega)]
  rw [if_pos (by omega), fin_ofNat_div off 4 0x060 j h]

/-- RK_j. -/
theorem locOf_rk (j : Fin 32) (h : off = 0x080 + 4 * j.val) : locOf mb off = some (.rk j) := by
  rw [locOf]
  iterate 5 rw [if_neg (by omega)]
  rw [if_pos (by omega), fin_ofNat_div off 32 0x080 j h]

/-- STATE_j. -/
theorem locOf_state (j : Fin 8) (h : off = 0x100 + 4 * j.val) : locOf mb off = some (.state j) := by
  rw [locOf]
  iterate 6 rw [if_neg (by omega)]
  rw [if_pos (by omega), fin_ofNat_div off 8 0x100 j h]

/-- MB_j. -/
theorem locOf_mb (j : Fin 16) (h : off = 0x140 + 4 * j.val) : locOf mb off = some (.mb j) := by
  rw [locOf]
  iterate 8 rw [if_neg (by omega)]
  rw [if_pos (by omega), fin_ofNat_div off 16 0x140 j h]

/-- Tbl[i][b]. -/
theorem locOf_tbl (i : Fin 4) (b : Fin 256) (h : off = 0x1000 + 0x400 * i.val + 4 * b.val) :
    locOf mb off = some (.tbl i b) := by
  rw [locOf]
  iterate 10 rw [if_neg (by omega)]
  rw [if_pos (by omega)]
  have hi : Fin.ofNat 4 ((off - 0x1000) / 0x400) = i := by
    apply Fin.ext
    rw [Fin.val_ofNat]
    omega
  have hb : Fin.ofNat 256 ((off - 0x1000) / 4) = b := by
    apply Fin.ext
    rw [Fin.val_ofNat]
    omega
  rw [hi, hb]

/-- A MSGMEM word inside the capacity. -/
theorem locOf_msg (a : Nat) (hmb : mb ≤ 0x100000) (ha : a + 3 < mb) (h : off = 0x100000 + a) :
    locOf mb off = some (.msg a) := by
  rw [locOf]
  iterate 12 rw [if_neg (by omega)]
  rw [if_pos (by simp only [Config.windowBytes]; omega)]
  have : off - 0x100000 = a := by omega
  rw [this]

/-- An offset of the table window is a table entry. -/
theorem locOf_window (h1 : 0x1000 ≤ off) (h2 : off < 0x2000) : ∃ i b, locOf mb off = some (.tbl i b) := by
  rw [locOf]
  iterate 10 rw [if_neg (by omega)]
  exact ⟨_, _, if_pos (by omega)⟩

/-- The reserved offsets have no location (R83). -/
theorem locOf_reserved
    (h : (0x028 ≤ off ∧ off < 0x040 ∧ off % 4 = 0) ∨ (0x070 ≤ off ∧ off < 0x080) ∨ (0x120 ≤ off ∧ off < 0x140) ∨
      (0x180 ≤ off ∧ off < 0x1000) ∨ (0x2000 ≤ off ∧ off < 0x100000) ∨ (0x100000 + mb ≤ off)) :
    locOf mb off = none := by
  rw [locOf]
  rcases h with h | h | h | h | h | h
  · rw [if_pos (by omega)]
    have : off = 0x28 ∨ off = 0x2c ∨ off = 0x30 ∨ off = 0x34 ∨ off = 0x38 ∨ off = 0x3c := by omega
    rcases this with h | h | h | h | h | h <;> subst h <;> rfl
  · iterate 4 rw [if_neg (by omega)]
    rw [if_pos (by omega)]
  · iterate 7 rw [if_neg (by omega)]
    rw [if_pos (by omega)]
  · iterate 9 rw [if_neg (by omega)]
    rw [if_pos (by omega)]
  · iterate 11 rw [if_neg (by omega)]
    rw [if_pos (by omega)]
  · iterate 12 rw [if_neg (by omega)]
    rw [if_neg (by simp only [Config.windowBytes]; omega)]

/-- An access at an aligned offset with a location goes to it. -/
theorem locate_of_locOf (l : Loc) (h4 : off % 4 = 0) (h : locOf mb off = some l) : locate mb off = .ok l :=
  (locate_ok mb off l).mpr ⟨h4, h⟩

/-- RD32 at a location. -/
theorem execRd32_of_locate (s : State) (l : Loc) (h : locate s.params.msgBytes off = .ok l) :
    execRd32 off s = match s.readLoc l with
      | .ok v => .next { s with rdata := some v }
      | .error e => .fault (.busError e) := by
  cases hr : s.readLoc l <;> simp [execRd32, State.readAt_eq, h, hr]

/-- WR32 at a location that is not read-only. -/
theorem execWr32_of_locate (s : State) (l : Loc) (v : Word) (h : locate s.params.msgBytes off = .ok l)
    (hl : l.readOnly = false) : execWr32 off v s = .next (s.writeLoc l v) := by
  rw [execWr32, State.writeAt_eq, h]
  simp [hl]

end Sys2Proof.Machine
end

