-- ==== Sys2Proof/Laws/Memory.lean ====
section
/-! SUPPORT. The laws of the message memory: read after write, and the canonical form. -/

namespace Sys2Proof.Machine

@[simp] theorem Memory.read?_nil (a : Nat) : Memory.read? [] a = none := rfl

theorem Memory.read?_cons (k : Nat) (w : Byte) (rest : Memory) (a : Nat) :
    Memory.read? ((k, w) :: rest) a = if k = a then some w else Memory.read? rest a := rfl

/-- A read after a write to the same index gives the value written. -/
@[simp] theorem Memory.read?_write_self (m : Memory) (a : Nat) (v : Byte) :
    Memory.read? (Memory.write m a v) a = some v := by
  induction m with
  | nil => simp [Memory.write, Memory.read?_cons]
  | cons c rest ih =>
    obtain ⟨k, w⟩ := c
    simp only [Memory.write]
    split
    · simp [Memory.read?_cons]
    · split
      · simp [Memory.read?_cons]
      · simp [Memory.read?_cons, ih, Ne.symm ‹¬a = k›]

/-- A write leaves every other index alone. -/
theorem Memory.read?_write_of_ne (m : Memory) (a b : Nat) (v : Byte) (h : b ≠ a) :
    Memory.read? (Memory.write m a v) b = Memory.read? m b := by
  induction m with
  | nil => simp [Memory.write, Memory.read?_cons, Ne.symm h]
  | cons c rest ih =>
    obtain ⟨k, w⟩ := c
    simp only [Memory.write]
    split
    · simp [Memory.read?_cons, Ne.symm h]
    · split
      · subst ‹a = k›
        simp [Memory.read?_cons, Ne.symm h]
      · simp [Memory.read?_cons, ih]

/-- A read after a write. -/
theorem Memory.read?_write (m : Memory) (a b : Nat) (v : Byte) :
    Memory.read? (Memory.write m a v) b = if b = a then some v else Memory.read? m b := by
  by_cases h : b = a
  · simp [h]
  · simp [h, Memory.read?_write_of_ne m a b v h]

/-- A write keeps the list rising from a bound at or below the index written. -/
theorem Memory.risingFrom_write (m : Memory) (a : Nat) (v : Byte) (lo : Nat) (hlo : lo ≤ a)
    (h : Memory.risingFrom lo m = true) : Memory.risingFrom lo (Memory.write m a v) = true := by
  induction m generalizing lo with
  | nil => simp [Memory.write, Memory.risingFrom, hlo]
  | cons c rest ih =>
    obtain ⟨k, w⟩ := c
    simp only [Memory.risingFrom, Bool.and_eq_true, decide_eq_true_eq] at h
    simp only [Memory.write]
    split
    · simp only [Memory.risingFrom, Bool.and_eq_true, decide_eq_true_eq]
      exact ⟨hlo, by omega, h.2⟩
    · split
      · subst ‹a = k›
        simp only [Memory.risingFrom, Bool.and_eq_true, decide_eq_true_eq]
        exact ⟨hlo, h.2⟩
      · simp only [Memory.risingFrom, Bool.and_eq_true, decide_eq_true_eq]
        exact ⟨h.1, ih (k + 1) (by omega) h.2⟩

/-- Every write keeps the canonical form. -/
theorem Memory.wf_write (m : Memory) (a : Nat) (v : Byte) (h : Memory.wf m = true) :
    Memory.wf (Memory.write m a v) = true :=
  Memory.risingFrom_write m a v 0 (Nat.zero_le a) h

/-- A run of writes keeps the canonical form. -/
theorem Memory.wf_writeBytes (m : Memory) (a : Nat) (vs : List Byte) (h : Memory.wf m = true) :
    Memory.wf (Memory.writeBytes m a vs) = true := by
  induction vs generalizing m a with
  | nil => exact h
  | cons v vs ih => exact ih _ _ (Memory.wf_write m a v h)

/-- A read after a run of writes. -/
theorem Memory.read?_writeBytes (m : Memory) (a : Nat) (vs : List Byte) (b : Nat) :
    Memory.read? (Memory.writeBytes m a vs) b =
      if a ≤ b ∧ b < a + vs.length then vs[b - a]? else Memory.read? m b := by
  induction vs generalizing m a with
  | nil => rw [Memory.writeBytes, if_neg (by simp)]
  | cons v vs ih =>
    rw [Memory.writeBytes, ih, Memory.read?_write]
    by_cases h1 : b = a
    · simp [h1]
    · by_cases h2 : a + 1 ≤ b ∧ b < a + 1 + vs.length
      · have h3 : a ≤ b ∧ b < a + (v :: vs).length := by simp; omega
        have h4 : b - a = (b - (a + 1)) + 1 := by omega
        rw [if_pos h2, if_pos h3, h4, List.getElem?_cons_succ]
      · have h3 : ¬ (a ≤ b ∧ b < a + (v :: vs).length) := by simp; omega
        rw [if_neg h2, if_neg h3, if_neg h1]

/-- The memory after reset is in canonical form. -/
theorem Memory.wf_nil : Memory.wf [] = true := rfl

/-- Canonical memories with a bound have no entry below it. -/
theorem Memory.read?_of_lt_risingFrom (m : Memory) (lo a : Nat) (h : Memory.risingFrom lo m = true) (ha : a < lo) :
    Memory.read? m a = none := by
  induction m generalizing lo with
  | nil => rfl
  | cons c rest ih =>
    obtain ⟨k, w⟩ := c
    simp only [Memory.risingFrom, Bool.and_eq_true, decide_eq_true_eq] at h
    rw [Memory.read?_cons, if_neg (by omega)]
    exact ih (k + 1) h.2 (by omega)

/-- One word written, and one byte read: the word's bytes at its four indexes, every other byte as before
(20_memory.md R88). -/
theorem State.msgByte_writeMsgWord (s : State) (a b : Nat) (v : Word) :
    (s.writeMsgWord a v).msgByte b =
      if b = a then byteLane 3 v else if b = a + 1 then byteLane 2 v else if b = a + 2 then byteLane 1 v
      else if b = a + 3 then byteLane 0 v else s.msgByte b := by
  simp only [State.msgByte, State.writeMsgWord, Memory.read?_writeBytes, bytesOfWord]
  rcases (by omega : b = a ∨ b = a + 1 ∨ b = a + 2 ∨ b = a + 3 ∨ (b < a ∨ a + 4 ≤ b)) with h | h | h | h | h
  · subst h; simp
  · subst h; simp
  · subst h; simp
  · subst h; simp
  · rw [if_neg (by simp; omega), if_neg (by omega), if_neg (by omega), if_neg (by omega), if_neg (by omega)]

end Sys2Proof.Machine
end

