-- ==== Sys2Proof/Laws/Step.lean ====
section
/-! SUPPORT. What a step can do, said once. -/

namespace Sys2Proof.Machine

/-- Every command answers a next state: its completion with the result of its pseudocode. -/
theorem exec_command (i : Instr) (h : isCommand i = true) (s : State) :
    ∃ r, exec i s = .next (s.complete r) := by
  cases i with
  | rd32 off => simp [isCommand] at h
  | wr32 off v => simp [isCommand] at h
  | tblinit => exact ⟨_, rfl⟩
  | expkey => exact ⟨_, rfl⟩
  | xform => exact ⟨_, rfl⟩
  | xformRev => exact ⟨_, rfl⟩
  | hinit => exact ⟨_, rfl⟩
  | hcomp => exact ⟨_, rfl⟩
  | hchunk => exact ⟨_, rfl⟩
  | hdigest => exact ⟨_, rfl⟩

/-- A legal command word decodes to a command. -/
theorem isCommand_of_decodeCommand (p : Word) (i : Instr) (h : decodeCommand p = .ok i) : isCommand i = true := by
  simp only [decodeCommand, commandOfOpcode] at h
  repeat' split at h
  all_goals first
    | (cases h; rfl)
    | exact absurd h (by simp)

/-- What the engine's turn can do: complete the pending word, or nothing. -/
theorem engineTurn_cases (s : State) :
    (∃ p, s.resetLine = false ∧ s.busy = true ∧ s.pending = some p ∧ engineTurn s = completePending s p) ∨
      ((s.resetLine = true ∨ s.busy = false ∨ s.pending = none) ∧ engineTurn s = .next s) := by
  cases hr : s.resetLine <;> cases hb : s.busy <;> cases hp : s.pending <;> simp [engineTurn, hr, hb, hp]

/-- A pending word completes as its command, or as ILLEGAL_COMMAND. -/
theorem completePending_cases (s : State) (p : Word) :
    (∃ i, decodeCommand p = .ok i ∧ isCommand i = true ∧ completePending s p = exec i s) ∨
      (∃ e, decodeCommand p = .error e ∧ completePending s p = .next (s.raiseError .illegalCommand)) := by
  cases h : decodeCommand p with
  | ok i => exact .inl ⟨i, rfl, isCommand_of_decodeCommand p i h, by simp [completePending, h]⟩
  | error e => exact .inr ⟨e, rfl, by simp [completePending, h, State.completeIllegal]⟩

/-- What a host transaction can do. -/
theorem hostTurn_cases (i : Instr) (s : State) :
    (s.resetLine = true ∧ hostTurn i s = .fault (.busError .inReset)) ∨
      (s.resetLine = false ∧ hostTurn i s = exec i s) := by
  cases h : s.resetLine <;> simp [hostTurn, h]

/-- What an access on the host bus can do: pass the instance by, be a bus error, or be a transaction of the window. -/
theorem busTurn_cases (addr bytes : Nat) (write : Bool) (data : Word) (s : State) :
    (windowOffset s.params.base addr = none ∧ busTurn addr bytes write data s = .next s) ∨
      (∃ e, busTurn addr bytes write data s = .fault (.busError e)) ∨
      (∃ off, windowOffset s.params.base addr = some off ∧ bytes = 4 ∧ s.resetLine = false ∧
        busTurn addr bytes write data s = exec (transaction write off data) s) := by
  cases h : windowOffset s.params.base addr with
  | none => exact .inl ⟨rfl, by simp [busTurn, h]⟩
  | some off =>
    cases hr : s.resetLine with
    | true => exact .inr (.inl ⟨.inReset, by simp [busTurn, h, hr]⟩)
    | false =>
      by_cases hb : bytes = 4
      · exact .inr (.inr ⟨off, rfl, hb, rfl, by simp [busTurn, h, hr, hb, hostTurn]⟩)
      · exact .inr (.inl ⟨.width, by simp [busTurn, h, hr, hb]⟩)

/-- A step with no input left is the engine's turn. -/
theorem step_of_nil (s : State) (h : s.inputs = []) : step s = engineTurn s := by simp [step, h]

/-- A step with inputs is the oldest one's turn. -/
theorem step_of_cons (s : State) (e : Input) (rest : List Input) (h : s.inputs = e :: rest) :
    step s = turn e s.popInput := by simp [step, h]

end Sys2Proof.Machine
end

