-- ==== Sys2Proof/Tests/Slice0.lean ====
section
/-! SUPPORT. The model's own tests, with expected values from spec/95_test_vectors.md and the encodings of spec/30_encoding.md,
and a witness for each statement that has hypotheses. -/

namespace Sys2Proof.Tests

open Sys2Proof Sys2Proof.Machine

/-! ## Well-formedness: each check refuses an ill-formed term -/

theorem test_wf_read_in_window : (Instr.rd32 0x1FFFFF).wf = true ∧ (Instr.rd32 0x200000).wf = false := by decide
theorem test_wf_write_in_window : (Instr.wr32 0x1FFFFF 0).wf = true ∧ (Instr.wr32 0x200000 0).wf = false := by decide

/-! ## Decoding: words written out bit by bit from the encodings of R121 (RSV 31:9, REV 8, OPC 7:0) and R128 -/

theorem test_decode_tblinit : decodeCommand 0b00000000000000000000000_0_00000001 = .ok .tblinit := by decide
theorem test_decode_expkey : decodeCommand 0b00000000000000000000000_0_00000010 = .ok .expkey := by decide
theorem test_decode_xform : decodeCommand 0b00000000000000000000000_0_00000011 = .ok .xform := by decide
theorem test_decode_xform_rev : decodeCommand 0b00000000000000000000000_1_00000011 = .ok .xformRev := by decide
theorem test_decode_hinit : decodeCommand 0b00000000000000000000000_0_00000100 = .ok .hinit := by decide
theorem test_decode_hcomp : decodeCommand 0b00000000000000000000000_0_00000101 = .ok .hcomp := by decide
theorem test_decode_hchunk : decodeCommand 0b00000000000000000000000_0_00000110 = .ok .hchunk := by decide
theorem test_decode_hdigest : decodeCommand 0b00000000000000000000000_0_00000111 = .ok .hdigest := by decide

/-- R125's illegal words: a reserved opcode, REV = 1 on EXPKEY, a reserved bit. -/
theorem test_decode_rejects :
    decodeCommand 0x00000000 = .error .reservedOpcode ∧ decodeCommand 0x00000008 = .error .reservedOpcode ∧
    decodeCommand 0x000000FF = .error .reservedOpcode ∧ decodeCommand 0x00000102 = .error .revOnNonXform ∧
    decodeCommand 0x00000203 = .error .reservedBits ∧ decodeCommand 0x80000003 = .error .reservedBits := by decide

/-- `rd DOUT_0`: WE 0, OFF 0x060, DATA 0. -/
theorem test_decode_rd32 :
    decodeRecord 0b0_000000000000001100000_00000000000000000000000000000000 = .rd32 0x060 := by decide

/-- `wr KEY_0, 0x01234567`: WE 1, OFF 0x040, DATA 0x01234567. -/
theorem test_decode_wr32 :
    decodeRecord 0b1_000000000000001000000_00000001001000110100010101100111 = .wr32 0x040 0x01234567 := by decide

/-- Two records as 95_test_vectors.md P5 prints them. -/
theorem test_decode_printed_records :
    decodeRecord 0x30003c61626364 = .wr32 0x10003C 0x61626364 ∧ decodeRecord 0x00011c00000000 = .rd32 0x11C := by decide

/-- The records that 95_test_vectors.md P5 prints for `rd STATE_7` and `wr MSG+60`; `@0x200000` and `MSG+2` have none. -/
theorem test_assembler_records :
    (Stmt.rd (.named (.state 7))).record = some 0x00011c00000000 ∧
    (Stmt.wr (.named (.msg 60)) 0x61626364).record = some 0x30003c61626364 ∧
    (Stmt.rd (.raw 0x1FFFFF)).record.isSome = true ∧ (Stmt.wr (.raw 0x200000) 1).record = none ∧
    (Stmt.rd (.named (.msg 0x100000))).record = none ∧ (Stmt.rd (.named (.msg 2))).record = none := by decide

theorem test_round_constants :
    ∀ (i : Fin 32) (j : Fin 4),
      ((roundConstants.getD i 0).extractLsb' (8 * (3 - j)) 8).toNat = ((4 * i + j) * 7) % 256 := by decide

/-! ## One step on a small state -/

/-- The next state, if there is one. -/
def next? (o : Host.Outcome State Fault Refusal) : Option State :=
  match o with
  | .next t => some t
  | _ => none

/-- The bus error, if there is one. -/
def busError? (o : Host.Outcome State Fault Refusal) : Option BusError :=
  match o with
  | .fault (.busError e) => some e
  | _ => none

/-- A command in flight at reset. -/
def flying (word : Word) : State := State.reset.accept word

/-- The L1.1 key and block, with their lengths. -/
def katState : State :=
  { State.reset with key := #v[0x01234567, 0x89abcdef, 0xfedcba98, 0x76543210], keylen := 16,
                     din := #v[0x01234567, 0x89abcdef, 0xfedcba98, 0x76543210], blklen := 16 }

/-- "abc" in MSGMEM (L1.2). -/
def abcState : State :=
  { State.reset with msgmem := [(0, 0x61), (1, 0x62), (2, 0x63)], msglen := 3 }

/-- Table entries of R158, through the table window. -/
theorem test_tblinit_window :
    ((next? (exec .tblinit State.reset)).bind fun t =>
      (next? (exec (.rd32 0x1C04) t)).map fun u => (t.tblValid, u.rdata)) = some (true, some 0xd0924242) := by
  decide +kernel

/-- L2.2: RK_0 and RK_31 of the L1.1 key. -/
theorem test_expkey_kat :
    ((next? (exec .expkey katState)).map fun t => (t.rk[0], t.rk[31])) = some (0xf12186f9, 0x9124a012) := by
  decide +kernel

/-- L2.2: KEYLEN = 0x80000010 is INVALID_LENGTH. -/
theorem test_expkey_length :
    ((next? (exec .expkey { State.reset with keylen := 0x80000010 })).map fun t => (t.errcode, t.rk[0])) =
      some (.invalidLength, 0) := by
  decide +kernel

/-- L2.3: DIN = 0 and RK = 0. -/
theorem test_xform_zero :
    ((next? (exec .xform { State.reset with blklen := 16 })).map fun t => t.dout) =
      some #v[0x76767676, 0x6d6d6d6d, 0x18181818, 0x39393939] := by
  decide +kernel

/-- L2.3: a failing XFORM after reset leaves TBL_VALID = 0. -/
theorem test_xform_length :
    ((next? (exec .xform { State.reset with blklen := 15 })).map fun t => (t.errcode, t.tblValid)) =
      some (.invalidLength, false) := by
  decide +kernel

/-- L2.3: XFORM.REV with RK_i = 0x01010101 * i gives the L1.1 plaintext back. -/
theorem test_xform_rev :
    ((next? (exec .xformRev { State.reset with
        blklen := 16, din := #v[0x30fe8e28, 0x7841ddbd, 0x808454f4, 0xbb591443],
        rk := Vector.ofFn fun i : Fin 32 => BitVec.ofNat 32 (0x01010101 * i) })).map fun t => t.dout) =
      some #v[0x01234567, 0x89abcdef, 0xfedcba98, 0x76543210] := by
  decide +kernel

/-- R226's example. -/
theorem test_hinit :
    ((next? (exec .hinit State.reset)).map fun t => (t.hstate[0], t.hstate[7])) = some (0x7380166f, 0xb0fb0e4e) := by
  decide +kernel

/-- L2.4: HCOMP on MB all 0 with the STATE of reset. -/
theorem test_hcomp_zero :
    ((next? (exec .hcomp { State.reset with mblen := 64 })).map fun t => t.hstate) =
      some #v[0x2762550f, 0x18134933, 0xba35ce4e, 0x0a757e65, 0x8c0e7205, 0xfe9e4ff6, 0x5ac5c88b, 0xa3649ac2] := by
  decide +kernel

/-- L2.4: MBLEN = 63 leaves STATE. -/
theorem test_hcomp_length :
    ((next? (exec .hcomp { State.reset with mblen := 63 })).map fun t => (t.errcode, t.hstate[0])) =
      some (.invalidLength, 0) := by
  decide +kernel

/-- L2.4: the chunk of "abc". -/
theorem test_hchunk_abc :
    ((next? (exec .hchunk abcState)).map fun t => (t.mb[0], t.mb[1], t.mb[15], t.mblen)) =
      some (0x61626380, 0, 0x18, 64) := by
  decide +kernel

/-- L2.4: CHUNKIDX = NBLK is CHUNK_RANGE; MSGLEN = MSG_BYTES + 1 is MSG_TOO_LONG whatever CHUNKIDX is. -/
theorem test_hchunk_errors :
    ((next? (exec .hchunk { abcState with chunkidx := 1 })).map fun t => t.errcode) = some .chunkRange ∧
    ((next? (exec .hchunk { abcState with msglen := 0x1001, chunkidx := 0xffffffff })).map fun t => t.errcode) =
      some .msgTooLong := by
  decide +kernel

/-- L1.2: the digest of "abc". -/
theorem test_hdigest_abc :
    ((next? (exec .hdigest abcState)).map fun t => t.hstate) =
      some #v[0x66c7f0f4, 0x62eeedd9, 0xd1f2d46b, 0xdc10e4e2, 0x4167c487, 0x5cf2f7a2, 0x297da02b, 0x8f4ba8e0] := by
  decide +kernel

/-- L2.4: the digest of the empty message. -/
theorem test_hdigest_empty :
    ((next? (exec .hdigest State.reset)).map fun t => t.hstate) =
      some #v[0x1ab21d83, 0x55cfa17f, 0x8e611948, 0x31e81a8f, 0x22bec8c7, 0x28fefb74, 0x7ed035eb, 0x5082aa2b] := by
  decide +kernel

/-- P6 statements 4 and 13: STATUS after INVALID_LENGTH with IE = 1, and after a completion with HZ. -/
theorem test_rd32_status :
    ((next? (exec (.rd32 0x004) { State.reset with done := true, errcode := .invalidLength, ie := true })).bind
      fun t => t.rdata) = some 0x00000416 ∧
    ((next? (exec (.rd32 0x004) { State.reset with done := true, hz := true, ie := true })).bind
      fun t => t.rdata) = some 0x00000602 := by
  decide +kernel

/-- The bus errors of R91, R83 and R85 on a read. -/
theorem test_rd32_bus_errors :
    busError? (exec (.rd32 0x002) State.reset) = some .misaligned ∧
    busError? (exec (.rd32 0x028) State.reset) = some .unmapped ∧
    busError? (exec (.rd32 0x101000) State.reset) = some .unmapped ∧
    busError? (exec (.rd32 0x1000) State.reset) = some .tableNotBuilt := by
  decide +kernel

/-- L1.2 and R88: `wr MSG+0, 0x61626300` stores 61 62 63 00 in rising order, here over a byte already there. -/
theorem test_wr32_message :
    ((next? (exec (.wr32 0x100000 0x61626300) { State.reset with msgmem := [(2, 0xff), (9, 0x01)] })).map
      fun t => t.msgmem) = some [(0, 0x61), (1, 0x62), (2, 0x63), (3, 0x00), (9, 0x01)] := by
  decide +kernel

/-- P6 statement 12: a write while BUSY is dropped and sets HZ; R92: a read-only write is a bus error even then. -/
theorem test_wr32_busy :
    ((next? (exec (.wr32 0x00C 0) { flying 0x00000002 with keylen := 16 })).map fun t => (t.keylen, t.hz)) =
      some (16, true) ∧
    busError? (exec (.wr32 0x060 0) (flying 0x00000002)) = some .readOnly := by
  decide +kernel

/-! ## The step -/

/-- P6 statement 8: the illegal word 0x00000105 completes with ILLEGAL_COMMAND. -/
theorem test_step_illegal_word :
    ((next? (step (flying 0x00000105))).map fun t => (t.errcode, t.busy, t.done, t.pending, t.cmdLast)) =
      some (.illegalCommand, false, true, none, 0x00000105) := by
  decide +kernel

/-- The next step after withFetchWord runs the word given: HINIT, and `wr KEYLEN, 0x15` (P6 statement 2). -/
theorem test_step_placed :
    ((next? (step (State.reset.withFetchWord 32 0x00000004))).map fun t => t.hstate[0]) = some 0x7380166f ∧
    ((next? (step (State.reset.withFetchWord 56 0x20000c00000015))).map fun t => t.keylen) = some 0x15 := by
  decide +kernel

/-! ## Witnesses: states and operands that meet the hypotheses of the statements, at the edges of their ranges -/

theorem witness_PendingWordIsJudgedByItsFields :
    (flying 0x00000103).resetLine = false ∧ (flying 0x00000103).busy = true ∧
    (flying 0x00000103).pending = some 0x00000103 ∧
    (let p : Word := 0x00000103
     p.extractLsb' 9 23 = 0 ∧ 1 ≤ (p.extractLsb' 0 8).toNat ∧ (p.extractLsb' 0 8).toNat ≤ 7 ∧
      (p.getLsbD 8 = false ∨ p.extractLsb' 0 8 = 3)) :=
  ⟨rfl, rfl, rfl, by decide⟩

/-- Words that are not legal: opcode 0, opcode 8, REV = 1 on HDIGEST, a reserved bit. -/
theorem witness_PendingWordIsJudgedByItsFields_illegal :
    ¬ 1 ≤ ((0x00000000 : Word).extractLsb' 0 8).toNat ∧ ¬ ((0x00000008 : Word).extractLsb' 0 8).toNat ≤ 7 ∧
    ¬ ((0x00000107 : Word).getLsbD 8 = false ∨ (0x00000107 : Word).extractLsb' 0 8 = 3) ∧
    ¬ (0x00000203 : Word).extractLsb' 9 23 = 0 := by
  decide

theorem witness_DecodeAndEncodeAgree :
    (Instr.wr32 0x1FFFFF 0xffffffff).wf = true ∧ decodeCommand 0x00000103 = .ok .xformRev := by decide

theorem witness_OffsetsNameTheirLocations :
    (0x100000 : Nat) ≤ 0x100000 ∧ locate 0x100000 0x1FFFFC = .ok (.msg 0xFFFFC) ∧
    locate 0x1000 0x100FFC = .ok (.msg 0xFFC) ∧ locate 0x1000 0x1FFC = .ok (.tbl 3 255) := by decide

theorem witness_ReservedOffsetsAreBusErrors :
    State.reset.params.wf ∧ ∀ off ∈ [0x028, 0x03F, 0x070, 0x07F, 0x120, 0x13F, 0x180, 0xFFF, 0x2000, 0xFFFFF,
      0x101000, 0x1FFFFF],
      (0x028 ≤ off ∧ off < 0x040) ∨ (0x070 ≤ off ∧ off < 0x080) ∨ (0x120 ≤ off ∧ off < 0x140) ∨
      (0x180 ≤ off ∧ off < 0x1000) ∨ (0x2000 ≤ off ∧ off < 0x100000) ∨
      (0x100000 + State.reset.params.msgBytes ≤ off ∧ off ≤ 0x1FFFFF) := by
  decide

theorem witness_MisalignedOrNarrowAccessesAreBusErrors :
    (1 % 4 ≠ 0) ∧ windowOffset State.reset.params.base 0x1FFFFF = some 0x1FFFFF ∧ 0x1FFFFF % 4 ≠ 0 ∧
    windowOffset State.reset.params.base 0 = some 0 ∧ (2 : Nat) ≠ 4 := by decide

theorem witness_TableWindowReadsTheTable :
    State.reset.tblValid = false ∧ { State.reset with tblValid := true }.tblValid = true ∧
    0x1000 ≤ 0x1000 ∧ 0x1FFF ≤ 0x1FFF := by decide

theorem witness_MessageReadsAreBigEndian :
    State.reset.params.msgBytes ≤ 0x100000 ∧ 0 + 3 < State.reset.params.msgBytes ∧ 0xFFC % 4 = 0 ∧
    0xFFC + 3 < State.reset.params.msgBytes := by decide

theorem witness_idle_writes : State.reset.busy = false := by decide

theorem witness_MessageWritesAreBigEndianAndReadBack :
    State.reset.params.msgBytes ≤ 0x100000 ∧ State.reset.busy = false ∧ 0xFFC % 4 = 0 ∧
    0xFFC + 3 < State.reset.params.msgBytes := by decide

theorem witness_BusyWritesAreDroppedAndSetHz :
    (flying 1).busy = true ∧ locate (flying 1).params.msgBytes 0x00C = .ok .keylen ∧
    locate (flying 1).params.msgBytes 0x000 = .ok .cmd ∧
    locate (flying 1).params.msgBytes 0x050 = .ok (.din 0) ∧
    locate (flying 1).params.msgBytes 0x100FFC = .ok (.msg 0xFFC) ∧
    locate (flying 1).params.msgBytes 0x028 = .error .unmapped ∧
    (0x060 ≤ 0x06C ∧ 0x06C < 0x070) ∧ (0x1000 ≤ 0x1FFC ∧ 0x1FFC < 0x2000) := by decide

theorem witness_DiffusionsAreLinear : (31 : Nat) < 32 := by decide

theorem witness_ExpkeyWritesTheRoundKeys : katState.keylen = 16 ∧ State.reset.keylen ≠ 16 := by decide

theorem witness_XformTransformsTheBlock :
    (katState.tableOk ∧ katState.blklen = 16) ∧ (State.reset.tableOk ∧ State.reset.blklen ≠ 16) ∧
    { katState with tbl := combinedTable, tblValid := true }.tableOk :=
  ⟨⟨(fun h => nomatch h), rfl⟩, ⟨(fun h => nomatch h), by decide⟩, fun _ => rfl⟩

theorem witness_ReversedRoundKeysDecrypt : katState.blklen = 16 := rfl

/-- The longest message a core can hold (R86). -/
theorem witness_PaddingFollowsItsThreeParts : 8 * (List.replicate 0x100000 (0 : Byte)).length < 2 ^ 64 := by
  rw [List.length_replicate]; decide

theorem witness_PadByteIsTheByteOfThePaddedMessage : 63 < 64 * ((([] : List Byte).length + 8) / 64 + 1) := by decide

/-- MSGLEN at the capacity and the last chunk; one past each. -/
theorem witness_HchunkLoadsTheChunk :
    (let s := { State.reset with msglen := 0x1000, chunkidx := 64 }
     s.msglen.toNat ≤ s.params.msgBytes ∧ s.chunkidx.toNat < (s.msglen.toNat + 8) / 64 + 1) ∧
    (let s := { State.reset with msglen := 0x1001 }
     s.params.msgBytes < s.msglen.toNat) ∧
    (let s := { State.reset with msglen := 0x1000, chunkidx := 65 }
     s.msglen.toNat ≤ s.params.msgBytes ∧ (s.msglen.toNat + 8) / 64 + 1 ≤ s.chunkidx.toNat) := by
  decide

theorem witness_HcompCompressesOneBlock :
    { State.reset with mblen := 64 }.mblen = 64 ∧ State.reset.mblen ≠ 64 := by decide

theorem witness_HdigestChainsEveryBlock :
    (let s := { State.reset with msglen := 0x1000 }
     s.msglen.toNat ≤ s.params.msgBytes) ∧
    (let s := { State.reset with msglen := 0x1001 }
     s.params.msgBytes < s.msglen.toNat) := by decide

theorem witness_HostThreadingEqualsHdigest :
    abcState.busy = false ∧ abcState.msglen.toNat ≤ abcState.params.msgBytes := by decide

/-- Two different states with the same message: a byte past MSGLEN differs. -/
theorem witness_DigestDependsOnlyOnTheMessage :
    let s' := { abcState with msgmem := abcState.msgmem ++ [(3, 0xaa)] }
    s' ≠ abcState ∧ abcState.params.msgBytes = s'.params.msgBytes ∧ abcState.msglen = s'.msglen ∧
    abcState.msglen.toNat ≤ abcState.params.msgBytes ∧
    (∀ a < abcState.msglen.toNat, abcState.msgByte a = s'.msgByte a) ∧
    abcState.chunkidx = s'.chunkidx ∧ abcState.chunkidx.toNat < (abcState.msglen.toNat + 8) / 64 + 1 := by
  refine ⟨fun h => absurd (congrArg (fun s => s.msgmem.length) h) (by decide), rfl, rfl, by decide, ?_, rfl, by decide⟩
  decide

theorem witness_commands_answer :
    (∀ i ∈ [Instr.tblinit, .expkey, .xform, .xformRev, .hinit, .hcomp, .hchunk, .hdigest], isCommand i = true) ∧
    ∃ t, exec .hinit State.reset = .next t := ⟨by decide, _, rfl⟩

theorem witness_ErrorsChangeOnlyStatus :
    (∃ t, exec .expkey State.reset = .next t ∧ t.errcode ≠ .none) ∧ decodeCommand 0 = .error .reservedOpcode :=
  ⟨⟨_, rfl, by decide⟩, by decide⟩

theorem witness_InterruptFollowsDoneAndEnable :
    (0x002 : Word).getLsbD 1 = true ∧ (0xfffffffe : Word).getLsbD 0 = false ∧ State.reset.busy = false := by decide

/-- `rd STATUS` while a command is in flight (P6), and the completion that follows it. -/
theorem witness_host_event_while_busy :
    let e := Input.record (busRecord 0 0x004 0)
    e.notReset = true ∧ e ≠ .engine ∧ (flying 1).resetLine = false ∧ (flying 1).busy = true ∧
    (flying 1).pending.isSome = true ∧ (∃ t, turn e (flying 1) = .next t) ∧ ∃ u, engineTurn (flying 1) = .next u :=
  ⟨rfl, by decide, rfl, rfl, rfl, ⟨_, rfl⟩, ⟨_, rfl⟩⟩

theorem witness_StepRunsThePendingCommand :
    (flying 7).resetLine = false ∧ (flying 7).busy = true ∧ (flying 7).pending = some 7 ∧
    decodeCommand 7 = .ok .hdigest ∧ (flying 7).inputs = [] ∧
    { flying 7 with inputs := [.engine, .reset true] }.inputs = .engine :: [.reset true] := by decide

theorem witness_StepPerformsTheHostTransaction :
    (let s := { State.reset with inputs := [.record (busRecord 1 0x00C 16)] }
     s.resetLine = false ∧ s.inputs = .record (busRecord 1 0x00C 16) :: []) ∧
    (let s := { State.reset with inputs := [.access 0x1FFFFC 4 false 0] }
     s.resetLine = false ∧ 0x1FFFFC ≤ 0x1FFFFF ∧ s.inputs = .access (s.params.base + 0x1FFFFC) 4 false 0 :: []) := by
  decide

theorem witness_PlacedInstructionRunsNext :
    decodeTableWord 32 7 = some .hdigest ∧ decodeTableWord 56 0x3FFFFFFFFFFFFF = some (.wr32 0x1FFFFF 0xFFFFFFFF) := by
  decide

theorem witness_IdleKeepsAllState :
    State.reset.busy = false ∧ State.reset.inputs = [] ∧
    { State.reset with inputs := [.engine] }.inputs = .engine :: [] ∧
    (let s := { State.reset with inputs := [.access 0x200000 4 true 0] }
     State.reset.params.base + 0x200000 ≤ 0x200000 ∧ s.inputs = .access 0x200000 4 true 0 :: []) ∧
    (let s := { State.reset with params := ⟨0x200000, 4⟩, inputs := [.access 0x1FFFFF 1 true 0] }
     0x1FFFFF < s.params.base ∧ s.inputs = .access 0x1FFFFF 1 true 0 :: []) := by decide

theorem witness_ResetAbortsTheCommandInFlight :
    { flying 1 with inputs := [.reset true] }.inputs = .reset true :: [] ∧
    { State.reset with inputs := [.reset false] }.inputs = .reset false :: [] ∧
    { State.reset with resetLine := true }.resetLine = true := by decide

/-- The invariant is met by a state with a command in flight and one with a byte written and the table built. -/
theorem witness_StepKeepsTheInvariant :
    ((flying 3).Inv ∧ ∃ t, step (flying 3) = .next t) ∧
    { State.reset with msgmem := [(0xFFF, 1)], tbl := combinedTable, tblValid := true }.Inv := by
  refine ⟨⟨⟨by decide, by decide, (fun h => nomatch h), ⟨by decide, (fun a h => nomatch h)⟩, (fun h => nomatch h)⟩, _, rfl⟩,
    ⟨by decide, by decide, fun _ => rfl, ⟨by decide, fun a h => ?_⟩, (fun h => nomatch h)⟩⟩
  by_cases e : 0xFFF = a
  · subst e; decide
  · simp [Memory.read?, e] at h

theorem witness_AcceptedCommandsComplete :
    (flying 7).Inv ∧ (flying 7).busy = true ∧ ∀ e ∈ (flying 7).inputs, e.notReset = true :=
  ⟨⟨by decide, by decide, (fun h => nomatch h), ⟨by decide, (fun a h => nomatch h)⟩, (fun h => nomatch h)⟩, rfl, by decide⟩

theorem witness_CompletionAndStatusWriteInEitherOrder :
    let e := Input.record (busRecord 1 0x004 0x002)
    (flying 4).resetLine = false ∧ (flying 4).busy = true ∧ (flying 4).done = false ∧ (flying 4).pending = some 4 ∧
    (0x002 : Word).getLsbD 1 = true ∧ { flying 4 with inputs := [e, .engine] }.inputs = e :: .engine :: [] ∧
    { flying 4 with inputs := [.engine, e] }.inputs = .engine :: e :: [] := by decide

/-- A step of instance 0 of a platform of two. -/
theorem witness_InstancesShareNothing :
    let p : Platform := ⟨[flying 4, { State.reset with params := ⟨0x200000, 0x100000⟩ }]⟩
    (∃ q, p.stepAt 0 = .next q) ∧ 1 ≠ 0 ∧ p.wf := ⟨⟨_, rfl⟩, by decide, by decide⟩

end Sys2Proof.Tests
end

section
/-! SUPPORT. Host transactions at the control registers, and what a command writes when it completes. -/

namespace Sys2Proof.Machine

/-! ### Reads and writes at the control registers (20_memory.md R82, R94, R95) -/

/-- A control register stands at an aligned offset below the register files. -/
theorem aligned_of_controlLoc {off : Nat} {l : Loc} (h : controlLoc off = some l) : off % 4 = 0 ∧ off < 0x040 := by
  unfold controlLoc at h
  split at h
  case h_11 => cases h
  all_goals decide

theorem locate_of_controlLoc (mb : Nat) {off : Nat} {l : Loc} (h : controlLoc off = some l) : locate mb off = .ok l := by
  obtain ⟨h4, hlt⟩ := aligned_of_controlLoc h
  exact locate_of_locOf mb off l h4 ((locOf_control mb off hlt).trans h)

theorem exec_rd32_of_controlLoc (s : State) {off : Nat} {l : Loc} {v : Word} (h : controlLoc off = some l)
    (hv : s.readLoc l = .ok v) : exec (.rd32 off) s = .next { s with rdata := some v } := by
  rw [exec, execRd32_of_locate off s l (locate_of_controlLoc _ h), hv]

theorem exec_wr32_of_controlLoc (s : State) (v : Word) {off : Nat} {l : Loc} (h : controlLoc off = some l)
    (hl : l.readOnly = false) : exec (.wr32 off v) s = .next (s.writeLoc l v) :=
  execWr32_of_locate off s l v (locate_of_controlLoc _ h) hl

/-- A write of CMD while BUSY = 0 is an acceptance (10_state.md R54). -/
theorem exec_wr32_cmd_of_idle (s : State) (v : Word) (hidle : s.busy = false) :
    exec (.wr32 0x000 v) s = .next (s.accept v) := by
  have hstore : s.writeLoc .cmd v = s.accept v := by simp [State.writeLoc, State.storeLoc, hidle]
  rw [exec_wr32_of_controlLoc s v (l := .cmd) rfl rfl, hstore]

theorem exec_wr32_status (s : State) (v : Word) : exec (.wr32 0x004 v) s = .next (s.writeStatus v) :=
  exec_wr32_of_controlLoc s v (l := .status) rfl rfl

theorem exec_wr32_ctrl (s : State) (v : Word) : exec (.wr32 0x008 v) s = .next (s.writeCtrl v) :=
  exec_wr32_of_controlLoc s v (l := .ctrl) rfl rfl

/-! ### What a command's pseudocode writes (30_encoding.md R122) -/

/-- `t` differs from `s` in nothing but what some command's row of R122 writes: the result registers and the table. -/
def State.ResultsOnly (s t : State) : Prop :=
  t = { s with rk := t.rk, dout := t.dout, hstate := t.hstate, mb := t.mb, mblen := t.mblen, tbl := t.tbl,
               tblValid := t.tblValid }

theorem State.ResultsOnly.ie_eq {s t : State} (h : s.ResultsOnly t) : t.ie = s.ie := by
  rw [State.ResultsOnly] at h
  rw [h]

theorem resultsOnly_of_expkeyResult {s t : State} (h : expkeyResult s = .ok t) : s.ResultsOnly t := by
  rw [expkeyResult_eq] at h
  split at h <;> cases h
  rfl

theorem resultsOnly_of_xformResult {rev : Bool} {s t : State} (h : xformResult rev s = .ok t) : s.ResultsOnly t := by
  rw [xformResult_eq] at h
  split at h <;> cases h
  rfl

theorem resultsOnly_of_hcompResult {s t : State} (h : hcompResult s = .ok t) : s.ResultsOnly t := by
  rw [hcompResult_eq] at h
  split at h <;> cases h
  rfl

theorem resultsOnly_of_hchunkResult {s t : State} (h : hchunkResult s = .ok t) : s.ResultsOnly t := by
  rw [hchunkResult_eq] at h
  split at h
  · cases h
  · split at h <;> cases h
    rfl

theorem resultsOnly_of_hdigestResult {s t : State} (h : hdigestResult s = .ok t) : s.ResultsOnly t := by
  rw [hdigestResult_eq] at h
  split at h <;> cases h
  rfl

/-- A command is its completion with a result that, where it is a state, wrote only result registers and the table. -/
theorem exec_command_resultsOnly {i : Instr} (hi : isCommand i = true) (s : State) :
    ∃ r, exec i s = .next (s.complete r) ∧ ∀ t, r = .ok t → s.ResultsOnly t := by
  cases i with
  | rd32 off => simp [isCommand] at hi
  | wr32 off v => simp [isCommand] at hi
  | tblinit => exact ⟨_, rfl, by rintro t ⟨⟩; rfl⟩
  | expkey => exact ⟨_, rfl, fun _ => resultsOnly_of_expkeyResult⟩
  | xform => exact ⟨_, rfl, fun _ => resultsOnly_of_xformResult⟩
  | xformRev => exact ⟨_, rfl, fun _ => resultsOnly_of_xformResult⟩
  | hinit => exact ⟨_, rfl, by rintro t ⟨⟩; rfl⟩
  | hcomp => exact ⟨_, rfl, fun _ => resultsOnly_of_hcompResult⟩
  | hchunk => exact ⟨_, rfl, fun _ => resultsOnly_of_hchunkResult⟩
  | hdigest => exact ⟨_, rfl, fun _ => resultsOnly_of_hdigestResult⟩

@[simp] theorem State.complete_done (s : State) (r : Except ErrCode State) : (s.complete r).done = true := by
  cases r <;> rfl

/-- A completion leaves CTRL.IE alone: the error side keeps every operand, and no pseudocode writes it. -/
theorem State.complete_ie {s : State} {r : Except ErrCode State} (h : ∀ t, r = .ok t → s.ResultsOnly t) :
    (s.complete r).ie = s.ie := by
  cases r with
  | ok t => exact (h t rfl).ie_eq
  | error c => rfl

end Sys2Proof.Machine
end

section
/-! CERTIFICATES. The acceptance, the interrupt output and the reset values (10_state.md R54, R56, R60). -/

namespace Sys2Proof.Machine

/-- Settles O45: a completion sets DONE and leaves IE alone, so the level becomes IE; each of the three writes clears one
of its two factors. -/
theorem interruptFollowsDoneAndEnable : Obligations.InterruptFollowsDoneAndEnable := by
  unfold Obligations.InterruptFollowsDoneAndEnable
  intro s
  refine ⟨rfl, fun i t hi ht => ?_, fun v hv => ⟨_, exec_wr32_status s v, ?_⟩, fun v hv => ⟨_, exec_wr32_ctrl s v, ?_⟩,
    fun hidle v => ⟨_, exec_wr32_cmd_of_idle s v hidle, ?_⟩⟩
  · obtain ⟨r, hexec, hr⟩ := exec_command_resultsOnly hi s
    rw [hexec] at ht
    cases ht
    rw [State.irq, State.complete_done, State.complete_ie hr, Bool.true_and]
  · rw [State.irq, State.writeStatus_done, hv, Bool.not_true, Bool.and_false, Bool.false_and]
  · rw [State.irq, State.writeCtrl_ie, hv, Bool.and_false]
  · rw [State.irq, State.accept_done, Bool.false_and]

/-- Settles O13: an idle write of CMD is an acceptance, whose five fields are those the rule lists. -/
theorem idleCmdWriteAcceptsAnyWord : Obligations.IdleCmdWriteAcceptsAnyWord := by
  unfold Obligations.IdleCmdWriteAcceptsAnyWord
  intro s v hidle
  exact exec_wr32_cmd_of_idle s v hidle

/-- The empty message has one padded block (10_state.md R40). -/
theorem nblkOf_zero : nblkOf 0 = 1 := by decide

theorem statusWord_resetWith (p : Config.Params) (n : Nat) : (State.resetWith p n).statusWord = 0 := by
  simp [State.statusWord, State.resetWith, State.errFlag, ErrCode.code, State.irq, bitAt]

/-- Settles O52: the register files hold zeros, every other item is the literal R60 states, and NBLK of MSGLEN = 0 is 1. -/
theorem resetLeavesTheStatedValues : Obligations.ResetLeavesTheStatedValues := by
  unfold Obligations.ResetLeavesTheStatedValues
  refine ⟨⟨Config.platform, 0, rfl, by decide⟩, fun p n => ?_⟩
  have hnblk : (State.resetWith p n).readLoc .nblk = .ok 1 := congrArg (Except.ok <| BitVec.ofNat 32 ·) nblkOf_zero
  refine ⟨rfl, statusWord_resetWith p n, rfl, rfl, rfl, rfl, rfl, rfl, rfl, rfl, fun j => ?_, fun i => ?_, fun j => ?_,
    fun j => ?_, exec_rd32_of_controlLoc _ rfl hnblk, exec_rd32_of_controlLoc (l := .msgcap) _ rfl rfl⟩
  all_goals simp [State.resetWith]

end Sys2Proof.Machine
end

section
/-! SUPPORT. Host transactions that end in a bus error (20_memory.md R83, R91, R92). -/

namespace Sys2Proof.Machine

theorem locate_misaligned (mb : Nat) {off : Nat} (h : off % 4 ≠ 0) : locate mb off = .error .misaligned :=
  (locate_error mb off .misaligned).mpr (.inl ⟨h, rfl⟩)

/-- An offset with no location wherever it is aligned is an error either way, and the name depends on the alignment. -/
theorem exists_locate_error {mb off : Nat} (h : off % 4 = 0 → locOf mb off = none) :
    ∃ e, (off % 4 = 0 → e = BusError.unmapped) ∧ locate mb off = .error e := by
  by_cases h4 : off % 4 = 0
  · exact ⟨.unmapped, fun _ => rfl, (locate_error mb off .unmapped).mpr (.inr ⟨h4, h h4, rfl⟩)⟩
  · exact ⟨.misaligned, fun hz => absurd hz h4, locate_misaligned mb h4⟩

theorem exec_rd32_of_locate_error {s : State} {off : Nat} {e : BusError}
    (h : locate s.params.msgBytes off = .error e) : exec (.rd32 off) s = .fault (.busError e) := by
  rw [exec, execRd32, State.readAt_eq, h]

theorem exec_wr32_of_locate_error {s : State} {off : Nat} {e : BusError}
    (h : locate s.params.msgBytes off = .error e) (v : Word) : exec (.wr32 off v) s = .fault (.busError e) := by
  rw [exec, execWr32, State.writeAt_eq, h]

theorem exec_wr32_of_readOnly {s : State} {off : Nat} {l : Loc} (h : locate s.params.msgBytes off = .ok l)
    (hl : l.readOnly = true) (v : Word) : exec (.wr32 off v) s = .fault (.busError .readOnly) := by
  rw [exec, execWr32, State.writeAt_eq, h]
  simp only [hl, if_true]

/-- Both kinds of transaction check the alignment first, whatever the state (20_memory.md R94, R95). -/
theorem exec_transaction_misaligned (s : State) {off : Nat} (h : off % 4 ≠ 0) (write : Bool) (v : Word) :
    exec (transaction write off v) s = .fault (.busError .misaligned) := by
  have hloc := locate_misaligned s.params.msgBytes h
  cases write with
  | false => exact exec_rd32_of_locate_error hloc
  | true => exact exec_wr32_of_locate_error hloc v

end Sys2Proof.Machine
end

section
/-! CERTIFICATES. Bus errors, the table window and the reads of MSGMEM (20_memory.md R83, R85, R87, R91). -/

namespace Sys2Proof.Machine

/-- Settles O6: an aligned reserved offset has no location, a misaligned one is refused before that, and a read and a write
both end with the error of the location. -/
theorem reservedOffsetsAreBusErrors : Obligations.ReservedOffsetsAreBusErrors := by
  unfold Obligations.ReservedOffsetsAreBusErrors
  intro s off _ hreserved
  have hnone : off % 4 = 0 → locOf s.params.msgBytes off = none := fun h4 =>
    locOf_reserved s.params.msgBytes off (by omega)
  obtain ⟨e, hname, hloc⟩ := exists_locate_error hnone
  exact ⟨e, hname, exec_rd32_of_locate_error hloc, exec_wr32_of_locate_error hloc⟩

/-- Settles O7: the alignment is checked before the location, and an access that the bus port performs has 4 bytes, so one
that is performed here is misaligned. -/
theorem misalignedOrNarrowAccessesAreBusErrors : Obligations.MisalignedOrNarrowAccessesAreBusErrors := by
  unfold Obligations.MisalignedOrNarrowAccessesAreBusErrors
  refine ⟨fun s off h4 => ⟨exec_transaction_misaligned s h4 false 0, exec_transaction_misaligned s h4 true⟩,
    fun s addr bytes off write v hoff hbad => ?_⟩
  obtain ⟨houtside, -⟩ | hfault | ⟨off', hoff', hbytes, -, hexec⟩ := busTurn_cases addr bytes write v s
  · rw [houtside] at hoff
    cases hoff
  · exact hfault
  · obtain rfl : off' = off := Option.some.inj (hoff'.symm.trans hoff)
    have h4 : off' % 4 ≠ 0 := hbad.resolve_right (not_not_intro hbytes)
    exact ⟨.misaligned, hexec.trans (exec_transaction_misaligned s h4 write v)⟩

/-- Settles O9: the offset of an entry is located at that entry, whose read depends on TBL_VALID; a write in the window is
misaligned or at a read-only entry. -/
theorem tableWindowReadsTheTable : Obligations.TableWindowReadsTheTable := by
  unfold Obligations.TableWindowReadsTheTable
  intro s i b
  have hloc : locate s.params.msgBytes (0x1000 + 0x400 * i + 4 * b) = .ok (.tbl i b) :=
    locate_of_locOf _ _ _ (by omega) (locOf_tbl _ _ i b rfl)
  refine ⟨fun hvalid => ?_, fun hinvalid => ?_, fun off v hlo hhi => ?_⟩
  · rw [exec, execRd32_of_locate _ _ _ hloc]
    simp only [State.readLoc, hvalid, if_true]
  · rw [exec, execRd32_of_locate _ _ _ hloc]
    simp [State.readLoc, hinvalid]
  · by_cases h4 : off % 4 = 0
    · obtain ⟨i', b', hentry⟩ := locOf_window s.params.msgBytes off hlo (by omega)
      exact ⟨.readOnly, exec_wr32_of_readOnly (locate_of_locOf _ _ _ h4 hentry) rfl v⟩
    · exact ⟨.misaligned, exec_transaction_misaligned s h4 true v⟩

/-- Settles O11: the word read is `be32` of the four bytes, and each byte lane of a `be32` is its byte. -/
theorem messageReadsAreBigEndian : Obligations.MessageReadsAreBigEndian := by
  unfold Obligations.MessageReadsAreBigEndian
  intro s a hcap h4 ha
  have hloc : locate s.params.msgBytes (0x100000 + a) = .ok (.msg a) :=
    locate_of_locOf _ _ _ (by omega) (locOf_msg _ _ a hcap ha rfl)
  refine ⟨s.msgWord a, ?_, byteLane_be32 _ _ _ _⟩
  rw [exec, execRd32_of_locate _ _ _ hloc]
  rfl

end Sys2Proof.Machine
end

section
/-! SUPPORT. A legal command word is the encoding of its command, and its fields say that it is legal (30_encoding.md R121 to
R125). -/

namespace Sys2Proof.Machine

/-! ### The decoder inverts the encoder -/

/-- A command word with RSV = 0 is put together from its OPC and REV (R121). -/
theorem commandWord_of_rsvField {p : Word} (h : rsvField p = 0) : commandWord (opcField p) (revField p) = p := by
  apply BitVec.eq_of_getLsbD_eq
  intro k hk
  have hhigh : 9 ≤ k → p.getLsbD k = false := by
    intro h9
    have hbit := congrArg (·.getLsbD (k - 9)) h
    simpa [rsvField, show k - 9 < 23 by omega, Nat.add_sub_cancel' h9] using hbit
  simp only [commandWord, opcField, revField, BitVec.getLsbD_or, BitVec.getLsbD_shiftLeft, BitVec.getLsbD_setWidth,
    BitVec.getLsbD_extractLsb']
  rcases (by omega : k < 8 ∨ k = 8 ∨ 9 ≤ k) with hlow | rfl | h9
  · simp [hlow, hk]
  · simp
  · simp [hhigh h9, show ¬ k < 8 by omega, show ¬ k - 8 < 1 by omega]

/-- The opcode map of R122 reads the OPC that the encoder puts into a command's word with REV = 0. -/
theorem encode_of_commandOfOpcode {opc : BitVec 8} {i : Instr} (h : commandOfOpcode opc = .ok i) :
    encode i = .cmd (commandWord opc 0) := by
  unfold commandOfOpcode at h
  split at h
  case h_8 => cases h
  all_goals
    rename_i hopc
    cases h
    rw [← BitVec.setWidth_eq opc, ← BitVec.ofNat_toNat, hopc]
    rfl

/-- Decode drops no bit of a legal word (R124). -/
theorem encode_of_decodeCommand {p : Word} {i : Instr} (h : decodeCommand p = .ok i) : encode i = .cmd p := by
  unfold decodeCommand at h
  split at h
  · cases h
  next hrsv =>
    have hword := commandWord_of_rsvField (not_not.mp hrsv)
    split at h
    next hrev =>
      split at h
      next hopc =>
        cases h
        rw [← hword, hopc, hrev]
        rfl
      · cases h
    next hrev =>
      have hrev0 : revField p = 0 := (BitVec.eq_zero_or_eq_one _).resolve_right hrev
      rw [encode_of_commandOfOpcode h, ← hrev0, hword]

/-! ### The legal words, by what they encode, as a list and by their fields -/

/-- The eight words of R123. -/
def commandWords : List Word :=
  [0x00000001, 0x00000002, 0x00000003, 0x00000103, 0x00000004, 0x00000005, 0x00000006, 0x00000007]

/-- The fields of a legal word (R124). -/
abbrev LegalFields (p : Word) : Prop :=
  rsvField p = 0 ∧ 1 ≤ (opcField p).toNat ∧ (opcField p).toNat ≤ 7 ∧ (p.getLsbD 8 = false ∨ opcField p = 3)

theorem mem_commandWords_of_encode {p : Word} {i : Instr} (h : encode i = .cmd p) : p ∈ commandWords := by
  cases i <;> cases h <;> decide

theorem legalFields_of_mem_commandWords {p : Word} (h : p ∈ commandWords) : LegalFields p := by
  fin_cases h <;> decide

theorem revField_eq_one_iff (p : Word) : revField p = 1 ↔ p.getLsbD 8 = true := by
  rw [BitVec.getLsbD_eq_extractLsb', beq_iff_eq, revField]
  rfl

theorem exists_commandOfOpcode {opc : BitVec 8} (hlo : 1 ≤ opc.toNat) (hhi : opc.toNat ≤ 7) :
    ∃ i, commandOfOpcode opc = .ok i := by
  unfold commandOfOpcode
  interval_cases opc.toNat <;> exact ⟨_, rfl⟩

theorem exists_decodeCommand_of_legalFields {p : Word} (h : LegalFields p) : ∃ i, decodeCommand p = .ok i := by
  obtain ⟨hrsv, hlo, hhi, hrev⟩ := h
  unfold decodeCommand
  rw [if_neg (not_not_intro hrsv)]
  split
  next hone =>
    have hopc : opcField p = 3 := hrev.resolve_left (by simp [(revField_eq_one_iff p).mp hone])
    exact ⟨.xformRev, if_pos hopc⟩
  next => exact exists_commandOfOpcode hlo hhi

theorem exists_decodeCommand_iff_mem (p : Word) : (∃ i, decodeCommand p = .ok i) ↔ p ∈ commandWords :=
  ⟨fun ⟨_, hi⟩ => mem_commandWords_of_encode (encode_of_decodeCommand hi),
    fun hp => exists_decodeCommand_of_legalFields (legalFields_of_mem_commandWords hp)⟩

theorem exists_decodeCommand_iff_legalFields (p : Word) : (∃ i, decodeCommand p = .ok i) ↔ LegalFields p :=
  ⟨fun h => legalFields_of_mem_commandWords ((exists_decodeCommand_iff_mem p).mp h),
    exists_decodeCommand_of_legalFields⟩

/-! ### The engine's turn with a word in flight -/

theorem engineTurn_of_pending {s : State} {p : Word} (hr : s.resetLine = false) (hb : s.busy = true)
    (hp : s.pending = some p) : engineTurn s = completePending s p := by
  simp [engineTurn, hr, hb, hp]

end Sys2Proof.Machine
end

section
/-! CERTIFICATES. The legal command words, and what the engine makes of any word (30_encoding.md R123, R124). -/

namespace Sys2Proof.Machine

/-- Settles O2: a word that decodes is the encoding of its command, so it is one of the eight; each of the eight has the
fields that the decoder accepts. -/
theorem legalCommandWordsAreTheEight : Obligations.LegalCommandWordsAreTheEight := by
  unfold Obligations.LegalCommandWordsAreTheEight
  exact ⟨by decide, exists_decodeCommand_iff_mem⟩

/-- Settles O3: the decoder accepts a word exactly when its fields are legal, and an accepted word is the encoding of the
command that the engine performs. -/
theorem pendingWordIsJudgedByItsFields : Obligations.PendingWordIsJudgedByItsFields := by
  unfold Obligations.PendingWordIsJudgedByItsFields
  intro s p hreset hbusy hpending legal
  have hlegal : (∃ i, decodeCommand p = .ok i) ↔ legal := exists_decodeCommand_iff_legalFields p
  rw [engineTurn_of_pending hreset hbusy hpending, ← hlegal]
  obtain ⟨i, hi, hcommand, hturn⟩ | ⟨e, he, hturn⟩ := completePending_cases s p
  · exact ⟨fun _ => ⟨i, hcommand, encode_of_decodeCommand hi, hturn⟩, fun hillegal => absurd ⟨i, hi⟩ hillegal⟩
  · exact ⟨fun ⟨i, hi⟩ => by simp [he] at hi, fun _ => hturn⟩

end Sys2Proof.Machine
end

section
/-! SUPPORT. What an entry of the combined table is (40_primitives.md R158). -/

namespace Sys2Proof.Machine

theorem getElem_combinedColumn (i : Nat) {b : Nat} (hb : b < 256) :
    (combinedColumn i)[b] = diffuse (intoLane i (sbox (BitVec.ofNat 8 b))) := by
  simp [combinedColumn, List.getD, hb]

theorem getElem_combinedTable {i : Nat} (hi : i < 4) : combinedTable[i] = combinedColumn i := by
  match i, hi with
  | 0, _ | 1, _ | 2, _ | 3, _ => rfl

theorem combinedTable_entry {i b : Nat} (hi : i < 4) (hb : b < 256) :
    combinedTable[i][b] = diffuse (intoLane i (sbox (BitVec.ofNat 8 b))) := by
  rw [getElem_combinedTable hi, getElem_combinedColumn i hb]

end Sys2Proof.Machine
end

section
/-! CERTIFICATES. The combined table (40_primitives.md R158). -/

namespace Sys2Proof.Machine

/-- Settles O19: an entry is what R158 says by the way its column is built, and each of the rule's examples is that formula
evaluated at its i and b. -/
theorem combinedTableInvariant : Obligations.CombinedTableInvariant := by
  unfold Obligations.CombinedTableInvariant
  refine ⟨fun i b => combinedTable_entry i.isLt b.isLt, ?_⟩
  simp only [combinedTable_entry]
  decide

end Sys2Proof.Machine
end

section
/-! SUPPORT. The cipher's 32-round recurrence as a sequence of words (41_cipher.md R180, R182): the key schedule and the block
transform walk the same windows, with their own round function and round words. -/

namespace Sys2Proof.Machine

/-- The window after n rounds from x, with the round words rs in order (and 0 past their end). -/
def roundWindow (F : Word → Word) (x : Window) (rs : List Word) : Nat → Window
  | 0 => x
  | n + 1 => transformRound F (roundWindow F x rs n) (rs.getD n 0)

/-- Word n of the recurrence, the oldest word of the window after n rounds. -/
def roundWord (F : Word → Word) (x : Window) (rs : List Word) (n : Nat) : Word := (roundWindow F x rs n).w0

/-- A round moves each word of the window down by one place, so the four words of a window are four successive words of the
recurrence. -/
theorem roundWindow_eq_roundWords (F : Word → Word) (x : Window) (rs : List Word) (n : Nat) :
    roundWindow F x rs n =
      ⟨roundWord F x rs n, roundWord F x rs (n + 1), roundWord F x rs (n + 2), roundWord F x rs (n + 3)⟩ := rfl

/-- The recurrence of R180 and R182. -/
theorem roundWord_add_four (F : Word → Word) (x : Window) (rs : List Word) (n : Nat) :
    roundWord F x rs (n + 4) = roundWord F x rs n ^^^
      F (roundWord F x rs (n + 1) ^^^ roundWord F x rs (n + 2) ^^^ roundWord F x rs (n + 3) ^^^ rs.getD n 0) := rfl

theorem roundWindow_cons (F : Word → Word) (x : Window) (r : Word) (rs : List Word) (n : Nat) :
    roundWindow F x (r :: rs) (n + 1) = roundWindow F (transformRound F x r) rs n := by
  induction n with
  | zero => rfl
  | succ n ih => rw [roundWindow, ih, List.getD_cons_succ, roundWindow]

theorem foldl_transformRound (F : Word → Word) (x : Window) (rs : List Word) :
    rs.foldl (transformRound F) x = roundWindow F x rs rs.length := by
  induction rs generalizing x with
  | nil => rfl
  | cons r rs ih => rw [List.foldl_cons, ih, List.length_cons, roundWindow_cons]

/-- A key-schedule step is a round with Tk for the round function, so the round keys are the words of the recurrence from
the fifth on. -/
theorem getD_keyWords {cks : List Word} {i : Nat} (k : Window) (hi : i < cks.length) :
    (keyWords k cks).getD i 0 = roundWord roundTk k cks (i + 4) := by
  induction cks generalizing k i with
  | nil => exact absurd hi (Nat.not_lt_zero i)
  | cons ck cks ih =>
    cases i with
    | zero => rfl
    | succ i =>
      calc (keyWords k (ck :: cks)).getD (i + 1) 0
        _ = (keyWords (transformRound roundTk k ck) cks).getD i 0 := List.getD_cons_succ
        _ = roundWord roundTk (transformRound roundTk k ck) cks (i + 4) := ih _ (Nat.lt_of_succ_lt_succ hi)
        _ = roundWord roundTk k (ck :: cks) (i + 1 + 4) :=
          congrArg Window.w0 (roundWindow_cons roundTk k ck cks (i + 4)).symm

theorem transformFn_eq_reversedWords (F : Word → Word) (block : Vector Word 4) (rs : List Word) :
    transformFn F block rs =
      reversedWords (roundWindow F ⟨block[0], block[1], block[2], block[3]⟩ rs rs.length) := by
  rw [transformFn, foldl_transformRound]

end Sys2Proof.Machine
end

section
/-! CERTIFICATES. The key schedule and the block transform (41_cipher.md R180, R182). -/

namespace Sys2Proof.Machine

/-- Settles O23: k is the recurrence with Tk, from K ^ FK, over the round constants. -/
theorem roundKeysFollowTheRecurrence : Obligations.RoundKeysFollowTheRecurrence := by
  unfold Obligations.RoundKeysFollowTheRecurrence
  intro key
  refine ⟨roundWord roundTk (keySeed key) roundConstants, rfl, rfl, rfl, rfl,
    fun i _ => roundWord_add_four roundTk (keySeed key) roundConstants i, fun i => ?_⟩
  calc (expandKeyFn key)[i]
    _ = (keyWords (keySeed key) roundConstants).getD i 0 := getElem_wordFile 32 _ i i.isLt
    _ = roundWord roundTk (keySeed key) roundConstants (i + 4) := getD_keyWords (keySeed key) i.isLt

/-- Settles O25: X is the recurrence with F, from the block, over the round keys; the transform is the window after the 32
rounds, reversed. -/
theorem blockTransformFollowsTheRecurrence : Obligations.BlockTransformFollowsTheRecurrence := by
  unfold Obligations.BlockTransformFollowsTheRecurrence
  intro F block r
  refine ⟨roundWord F ⟨block[0], block[1], block[2], block[3]⟩ (List.ofFn r), rfl, rfl, rfl, rfl, fun i => ?_, ?_⟩
  · have hi : i < (List.ofFn r).length := List.length_ofFn.symm ▸ i.isLt
    have hr : (List.ofFn r).getD i 0 = r i := by rw [List.getD_eq_getElem _ 0 hi, List.getElem_ofFn]
    rw [roundWord_add_four, hr]
  · rw [transformFn_eq_reversedWords, List.length_ofFn, roundWindow_eq_roundWords, reversedWords]

end Sys2Proof.Machine
end

section
/-! SUPPORT. The padded message: its three parts, its length, its bytes by position, and its chunks (42_hash.md R210 to R214). -/

namespace Sys2Proof.Machine

/-! ### The number of zero bytes and the length bytes (R210) -/

theorem padZeros_lt (L : Nat) : padZeros L < 64 := by
  unfold padZeros
  omega

theorem padZeros_mod (L : Nat) : (L + 1 + padZeros L) % 64 = 56 := by
  unfold padZeros
  omega

/-- The message, the byte 0x80, the zeros and the eight length bytes fill whole blocks (R211). -/
theorem add_padZeros_eq_blockCount (L : Nat) : L + 1 + padZeros L + 8 = 64 * blockCount L := by
  have hlt := padZeros_lt L
  have hmod := padZeros_mod L
  unfold blockCount
  omega

/-- The bytes of a 64-bit value are its quotients by the powers of 256, most significant first. -/
theorem be64_ofNat {v : Nat} (hv : v < 2 ^ 64) :
    be64 (BitVec.ofNat 64 v) = List.ofFn fun k : Fin 8 => BitVec.ofNat 8 (v / 2 ^ (8 * (7 - k.val))) := by
  apply List.ext_getElem
  · rw [length_be64, List.length_ofFn]
  · intro k _ _
    simp only [be64, List.getElem_map, List.getElem_range, List.getElem_ofFn, BitVec.extractLsb', BitVec.toNat_ofNat,
      Nat.mod_eq_of_lt hv, Nat.shiftRight_eq_div_pow]

/-! ### The bytes by position (R211, R212) -/

@[simp] theorem length_padFn (M : List Byte) : (padFn M).length = 64 * blockCount M.length := by
  simp only [padFn, List.length_append, List.length_singleton, List.length_replicate, length_be64,
    add_padZeros_eq_blockCount]

/-- Each case of PadByte is the part of the padded message that p falls into. -/
theorem getElem?_padFn {M : List Byte} {p : Nat} (hp : p < 64 * blockCount M.length) :
    (padFn M)[p]? = some (padByte M p) := by
  have hlen := add_padZeros_eq_blockCount M.length
  have hbits : 64 * blockCount M.length - 8 = M.length + 1 + padZeros M.length := by omega
  have hfront : (M ++ [0x80]).length = M.length + 1 := List.length_append
  have hbody : (M ++ [0x80] ++ List.replicate (padZeros M.length) 0).length = M.length + 1 + padZeros M.length := by
    rw [List.length_append, hfront, List.length_replicate]
  simp only [padFn, padByte, hbits]
  rcases (by omega : p < M.length ∨ p = M.length ∨ (M.length < p ∧ p < M.length + 1 + padZeros M.length) ∨
    M.length + 1 + padZeros M.length ≤ p) with hmsg | rfl | ⟨hlo, hzero⟩ | hlast
  · simp [List.getElem?_append_left, hmsg]
  · simp
  · rw [List.getElem?_append_left (by rwa [hbody]), List.getElem?_append_right (by rwa [hfront]), hfront,
      List.getElem?_replicate_of_lt (by omega), if_neg (by omega), if_neg (by omega), if_pos hzero]
  · have hk : p - (M.length + 1 + padZeros M.length) < (be64 (BitVec.ofNat 64 (8 * M.length))).length := by
      rw [length_be64]
      omega
    rw [List.getElem?_append_right (by rwa [hbody]), hbody, if_neg (by omega), if_neg (by omega), if_neg (by omega),
      List.getD_eq_getElem _ _ hk, List.getElem?_eq_getElem hk]

theorem padFn_eq_map_padByte (M : List Byte) : padFn M = (List.range (64 * blockCount M.length)).map (padByte M) := by
  apply List.ext_getElem?
  intro p
  by_cases hp : p < 64 * blockCount M.length
  · rw [getElem?_padFn hp, List.getElem?_map, List.getElem?_range hp, Option.map_some]
  · rw [List.getElem?_eq_none (by simpa using hp), List.getElem?_eq_none (by simpa using hp)]

/-! ### The chunks (R214) -/

@[simp] theorem length_chunk (M : List Byte) (n : Nat) : (chunk M n).length = 64 := by
  rw [chunk, List.length_map, List.length_range]

theorem getElem?_chunk (M : List Byte) (n : Nat) {k : Nat} (hk : k < 64) :
    (chunk M n)[k]? = some (padByte M (64 * n + k)) := by
  rw [chunk, List.getElem?_map, List.getElem?_range hk, Option.map_some]

/-- The first n chunks in order are the padded bytes below 64 * n. -/
theorem flatMap_chunk (M : List Byte) (n : Nat) :
    (List.range n).flatMap (chunk M) = (List.range (64 * n)).map (padByte M) := by
  induction n with
  | zero => rfl
  | succ n ih =>
    rw [List.range_succ, List.flatMap_append, ih, List.flatMap_singleton, Nat.mul_succ, List.range_add, List.map_append,
      List.map_map]
    rfl

/-! ### The block count in a register (R213, 10_state.md R40) -/

/-- The block count of a message length that MSGLEN can hold is far below the 32 bits of NBLK. -/
theorem nblkOf_le (msglen : Word) : nblkOf msglen ≤ 2 ^ 26 + 1 := by
  have hlt := msglen.isLt
  unfold nblkOf blockCount
  omega

end Sys2Proof.Machine
end

section
/-! CERTIFICATES. The padding, the block count and the chunks (42_hash.md R210, R213, R214). -/

namespace Sys2Proof.Machine

/-- Settles O29: z is the model's count of zeros, and the length bytes of a bit length below 2^64 are its quotients. -/
theorem paddingFollowsItsThreeParts : Obligations.PaddingFollowsItsThreeParts := by
  unfold Obligations.PaddingFollowsItsThreeParts
  intro M hM
  exact ⟨padZeros M.length, padZeros_lt _, padZeros_mod _, by rw [padFn, be64_ofNat hM]⟩

/-- Settles O32: a chunk is the padded bytes from 64 * n on, so the chunks list every padded byte in order. -/
theorem chunksConcatenateToThePaddedMessage : Obligations.ChunksConcatenateToThePaddedMessage := by
  unfold Obligations.ChunksConcatenateToThePaddedMessage
  intro M
  refine ⟨fun n _ => ⟨length_chunk M n, fun k hk => getElem?_chunk M n hk⟩, ?_⟩
  rw [flatMap_chunk, padFn_eq_map_padByte]

/-- Settles O31: the bounds pin the ceiling, and the word that NBLK reads holds the count of any MSGLEN without loss. -/
theorem blockCountIsTheCeiling : Obligations.BlockCountIsTheCeiling := by
  unfold Obligations.BlockCountIsTheCeiling
  refine ⟨fun L => ?_, by decide, by decide, by decide, by decide, by decide, by decide, fun s => ?_⟩
  · unfold blockCount
    omega
  · have hle := nblkOf_le s.msglen
    have hread : (BitVec.ofNat 32 (nblkOf s.msglen)).toNat = nblkOf s.msglen := by
      rw [BitVec.toNat_ofNat, Nat.mod_eq_of_lt (by omega)]
    exact ⟨_, exec_rd32_of_controlLoc s (l := .nblk) rfl rfl, hread, hread.trans_le hle⟩

end Sys2Proof.Machine
end

section
/-! SUPPORT. The message expansion as a growing list of words, and the registers after each round of the compression
(42_hash.md R223, R224). -/

namespace Sys2Proof.Machine

/-! ### The expansion (R223) -/

/-- The words of the expansion after n of its 52 steps: the block's 16 words, then W[16] .. W[15+n]. -/
def expandedWords (m : Vector Word 16) (n : Nat) : List Word :=
  (List.range' 16 n).foldl (fun W i => W ++ [expandedWord W i]) m.toList

theorem expandW_eq_expandedWords (m : Vector Word 16) : expandW m = expandedWords m 52 := rfl

theorem expandedWords_succ (m : Vector Word 16) (n : Nat) :
    expandedWords m (n + 1) = expandedWords m n ++ [expandedWord (expandedWords m n) (16 + n)] := by
  rw [expandedWords, List.range'_1_concat, List.foldl_concat, ← expandedWords]

@[simp] theorem length_expandedWords (m : Vector Word 16) (n : Nat) : (expandedWords m n).length = 16 + n := by
  induction n with
  | zero => exact m.length_toList
  | succ n ih => rw [expandedWords_succ, List.length_append, ih, List.length_singleton, Nat.add_assoc]

/-- A later step keeps the words before it. -/
theorem getD_expandedWords_add (m : Vector Word 16) {n i : Nat} (k : Nat) (hi : i < 16 + n) :
    (expandedWords m (n + k)).getD i 0 = (expandedWords m n).getD i 0 := by
  induction k with
  | zero => rfl
  | succ k ih =>
    have hlt : i < (expandedWords m (n + k)).length := by
      rw [length_expandedWords]
      omega
    rw [← Nat.add_assoc, expandedWords_succ, List.getD_append _ _ _ _ hlt, ih]

theorem getD_expandedWords_new (m : Vector Word 16) (n : Nat) :
    (expandedWords m (n + 1)).getD (16 + n) 0 = expandedWord (expandedWords m n) (16 + n) := by
  rw [expandedWords_succ, List.getD_append_right _ _ _ _ (length_expandedWords m n).le, length_expandedWords, Nat.sub_self,
    List.getD_cons_zero]

/-- A word of the recurrence depends only on the words before it. -/
theorem expandedWord_congr {W W' : List Word} {i : Nat} (hi : 16 ≤ i) (h : ∀ j < i, W.getD j 0 = W'.getD j 0) :
    expandedWord W i = expandedWord W' i := by
  rw [expandedWord, h (i - 16) (by omega), h (i - 9) (by omega), h (i - 3) (by omega), h (i - 13) (by omega),
    h (i - 6) (by omega), ← expandedWord]

/-- The block's words are the first 16. -/
theorem getD_expandW_block (m : Vector Word 16) (i : Fin 16) : (expandW m).getD i 0 = m[i] := by
  calc (expandW m).getD i 0
    _ = (expandedWords m 0).getD i 0 := getD_expandedWords_add m (n := 0) 52 i.isLt
    _ = m[i] := by simp [expandedWords]

/-- The recurrence over the whole list: word 16 + n is appended by step n, and the steps from there on keep both it and the
words it is computed from. -/
theorem getD_expandW_recurrence (m : Vector Word 16) {n : Nat} (hn : n < 52) :
    (expandW m).getD (16 + n) 0 = expandedWord (expandW m) (16 + n) := by
  have hkeep {k i : Nat} (hk : k ≤ 52) (hi : i < 16 + k) : (expandedWords m k).getD i 0 = (expandW m).getD i 0 := by
    rw [expandW_eq_expandedWords, ← Nat.add_sub_cancel' hk, getD_expandedWords_add m _ hi]
  calc (expandW m).getD (16 + n) 0
    _ = (expandedWords m (n + 1)).getD (16 + n) 0 := (hkeep hn (by omega)).symm
    _ = expandedWord (expandedWords m n) (16 + n) := getD_expandedWords_new m n
    _ = expandedWord (expandW m) (16 + n) := expandedWord_congr (by omega) fun _ => hkeep hn.le

/-! ### The rounds (R224) -/

/-- The working registers after n rounds of the compression. -/
def regsAfter (v : Vector Word 8) (m : Vector Word 16) (n : Nat) : HashRegs :=
  (List.range n).foldl (compressRound (expandW m)) (loadRegs v)

theorem compressFn_eq_regsAfter (v : Vector Word 8) (m : Vector Word 16) :
    compressFn v m = xorRegs v (regsAfter v m 64) := rfl

theorem regsAfter_succ (v : Vector Word 8) (m : Vector Word 16) (n : Nat) :
    regsAfter v m (n + 1) = compressRound (expandW m) (regsAfter v m n) n := by
  rw [regsAfter, List.range_succ, List.foldl_concat, ← regsAfter]

end Sys2Proof.Machine
end

section
/-! CERTIFICATES. The message expansion and the compression (42_hash.md R223, R224). -/

namespace Sys2Proof.Machine

/-- Settles O34: each step appends one word of the recurrence and keeps the words before it; W1 is what its definition says. -/
theorem expansionFollowsTheRecurrence : Obligations.ExpansionFollowsTheRecurrence := by
  unfold Obligations.ExpansionFollowsTheRecurrence
  intro m
  refine ⟨length_expandedWords m 52, getD_expandW_block m, fun i hlo hhi => ?_, fun i _ => rfl⟩
  obtain ⟨n, rfl⟩ := Nat.exists_eq_add_of_le hlo
  exact getD_expandW_recurrence m (by omega)

/-- Settles O35: r is the registers after each round, and a round's fields are the rule's right-hand sides over the registers
before it. -/
theorem compressionFollowsTheRounds : Obligations.CompressionFollowsTheRounds := by
  unfold Obligations.CompressionFollowsTheRounds
  intro v m
  refine ⟨regsAfter v m, rfl, fun i _ => ?_, compressFn_eq_regsAfter v m⟩
  rw [regsAfter_succ]
  exact ⟨rfl, rfl, rfl, rfl, rfl, rfl, rfl, rfl⟩

end Sys2Proof.Machine
end

section
/-! CERTIFICATES. What an error completion changes (60_exceptions.md R275). -/

namespace Sys2Proof.Machine

/-- A completion that reports a code took the error side, which drops the pseudocode's state. -/
theorem State.complete_of_errcode_ne_none {s : State} {r : Except ErrCode State} (h : (s.complete r).errcode ≠ .none) :
    s.complete r = s.raiseError (s.complete r).errcode := by
  obtain ⟨t, -, hcommit⟩ | ⟨c, -, hraise⟩ := s.complete_cases r
  · rw [hcommit] at h
    exact absurd t.commit_errcode h
  · rw [hraise, State.raiseError_errcode]

theorem completePending_of_illegal (s : State) {p : Word} {e : Reject} (h : decodeCommand p = .error e) :
    completePending s p = .next (s.raiseError .illegalCommand) := by
  obtain ⟨i, hi, -⟩ | ⟨-, -, hturn⟩ := completePending_cases s p
  · rw [h] at hi
    cases hi
  · exact hturn

/-- Settles O42: only the error side of a completion reports a code, and it raises that code on the old state, as the engine
does for a word that is not legal. -/
theorem errorsChangeOnlyStatus : Obligations.ErrorsChangeOnlyStatus := by
  unfold Obligations.ErrorsChangeOnlyStatus
  refine ⟨fun i s t hi ht hcode => ?_, fun s p e he => completePending_of_illegal s he⟩
  obtain ⟨r, hexec⟩ := exec_command i hi s
  rw [hexec] at ht
  cases ht
  exact State.complete_of_errcode_ne_none hcode

end Sys2Proof.Machine
end

section
/-! SUPPORT. A host access finds its location by the location's own offset, so the map of 20_memory.md R82 to R87 can be read
backwards, at every capacity. -/

namespace Sys2Proof.Machine

theorem offset_of_controlLoc {off : Nat} {l : Loc} (h : controlLoc off = some l) : l.offset = off := by
  unfold controlLoc at h
  split at h
  case h_11 => cases h
  all_goals
    cases h
    rfl

/-- The branches of `locOf` are the regions of the map; in each, the index taken from an aligned offset gives it back. -/
theorem offset_of_locOf {mb off : Nat} {l : Loc} (h4 : off % 4 = 0) (h : locOf mb off = some l) : l.offset = off := by
  simp only [locOf, ite_eq_iff, reduceCtorEq, and_false, false_or, or_false,
    Option.some.injEq] at h
  obtain ⟨-, hcontrol⟩ | ⟨_, ⟨_, rfl⟩ | ⟨_, ⟨_, rfl⟩ | ⟨_, ⟨_, rfl⟩ | ⟨_, _, ⟨_, rfl⟩ | ⟨_, ⟨_, rfl⟩ | ⟨_, _, ⟨_, rfl⟩ |
    ⟨_, _, ⟨_, rfl⟩ | ⟨_, _, -, rfl⟩⟩⟩⟩⟩⟩⟩⟩ := h
  · exact offset_of_controlLoc hcontrol
  all_goals
    simp only [Loc.offset, Fin.val_ofNat]
    omega

theorem offset_of_locate {mb off : Nat} {l : Loc} (h : locate mb off = .ok l) : l.offset = off := by
  obtain ⟨h4, hloc⟩ := (locate_ok mb off l).mp h
  exact offset_of_locOf h4 hloc

/-- The read-only locations by their offsets: NBLK, MSGCAP, DOUT and the table window (R92). -/
theorem Loc.readOnly_iff_offset (l : Loc) :
    l.readOnly = true ↔ l.offset = 0x020 ∨ l.offset = 0x024 ∨ (0x060 ≤ l.offset ∧ l.offset < 0x070) ∨
      (0x1000 ≤ l.offset ∧ l.offset < 0x2000) := by
  cases l with
  | nblk => exact iff_of_true rfl (.inl rfl)
  | msgcap => exact iff_of_true rfl (.inr (.inl rfl))
  | _ =>
    simp only [Loc.readOnly, Loc.offset, true_iff, Bool.false_eq_true, false_iff]
    omega

end Sys2Proof.Machine
end

section
/-! CERTIFICATES. Host writes while BUSY = 1 (70_reset_and_hazards.md R310). -/

namespace Sys2Proof.Machine

theorem State.writeLoc_of_busy {s : State} {l : Loc} (hbusy : s.busy = true) (hstatus : l ≠ .status) (hctrl : l ≠ .ctrl)
    (v : Word) : s.writeLoc l v = s.dropWrite := by
  obtain ⟨hl, -⟩ | ⟨hl, -⟩ | ⟨-, -, -, hdrop⟩ | ⟨-, -, hidle, -⟩ := s.writeLoc_cases l v
  · exact absurd hl hstatus
  · exact absurd hl hctrl
  · exact hdrop
  · simp [hbusy] at hidle

/-- Settles O17: an offset without a location faults in `locate`; a location is bad just if it is read-only, which is checked
before BUSY, and a write at any other is dropped. -/
theorem busyWritesAreDroppedAndSetHz : Obligations.BusyWritesAreDroppedAndSetHz := by
  unfold Obligations.BusyWritesAreDroppedAndSetHz
  intro s v off hbusy hstatus hctrl bad
  cases hloc : locate s.params.msgBytes off with
  | error e =>
    have hbad : bad := .inl fun l hl => by rw [hloc] at hl; cases hl
    exact ⟨fun _ => ⟨e, exec_wr32_of_locate_error hloc v⟩, fun hgood => absurd hbad hgood⟩
  | ok l =>
    obtain rfl := offset_of_locate hloc
    have hbad : bad ↔ l.readOnly = true :=
      (or_iff_right fun hnone => hnone l hloc).trans l.readOnly_iff_offset.symm
    rw [hbad, Bool.not_eq_true]
    refine ⟨fun hro => ⟨.readOnly, exec_wr32_of_readOnly hloc hro v⟩, fun hrw => ?_⟩
    have hdrop : s.writeLoc l v = s.dropWrite :=
      State.writeLoc_of_busy hbusy (ne_of_apply_ne Loc.offset hstatus) (ne_of_apply_ne Loc.offset hctrl) v
    rw [exec, execWr32_of_locate _ s l v hloc hrw, hdrop, State.dropWrite]

end Sys2Proof.Machine
end

section
/-! SUPPORT. Decode inverts encode: a record's fields are read back where the encoder puts them (30_encoding.md R121, R128). -/

namespace Sys2Proof.Machine

/-- Every record is a transaction of its own fields. -/
theorem decodeRecord_eq_transaction (r : BitVec 54) :
    decodeRecord r =
      transaction (r.extractLsb' 53 1 = 1) (r.extractLsb' 32 21).toNat (r.extractLsb' 0 32) := by
  simp only [decodeRecord, transaction, decide_eq_true_eq]

theorem decodeRecord_busRecord_read {off : Nat} (h : offsetInWindow off = true) (v : Word) :
    decodeRecord (busRecord 0 off v) = .rd32 off := by
  rw [decodeRecord, Laws.Fields.we_busRecord, if_neg (by decide), Laws.Fields.off_busRecord, Laws.Fields.toNat_off off h]

theorem decodeRecord_busRecord_write {off : Nat} (h : offsetInWindow off = true) (v : Word) :
    decodeRecord (busRecord 1 off v) = .wr32 off v := by
  rw [decodeRecord, Laws.Fields.we_busRecord, if_pos rfl, Laws.Fields.off_busRecord, Laws.Fields.toNat_off off h,
    Laws.Fields.data_busRecord]

theorem decode_encode {i : Instr} (h : i.wf = true) : decode (encode i) = .ok i := by
  cases i with
  | rd32 off => exact congrArg Except.ok (decodeRecord_busRecord_read h 0)
  | wr32 off v => exact congrArg Except.ok (decodeRecord_busRecord_write h v)
  | _ => decide

end Sys2Proof.Machine
end

section
/-! CERTIFICATES. The encodings (30_encoding.md R121, R123, R124, R128). -/

namespace Sys2Proof.Machine

/-- Settles O4: a record's fields are read back, each command's word is its own, and a legal word is the encoding of its
command. -/
theorem decodeAndEncodeAgree : Obligations.DecodeAndEncodeAgree := by
  unfold Obligations.DecodeAndEncodeAgree
  exact ⟨fun _ => decode_encode, fun _ _ => encode_of_decodeCommand⟩

/-- Settles O1: the seven words are closed inputs, on which the decoder computes. -/
theorem writtenWordsDecode : Obligations.WrittenWordsDecode := by
  unfold Obligations.WrittenWordsDecode
  decide

end Sys2Proof.Machine
end

section
/-! SUPPORT. A command is its check and its writes, completed together (10_state.md R55, 60_exceptions.md R270 to R275): said
once for the eight commands. -/

namespace Sys2Proof.Machine

/-- The code of the first check that fails, by the command's operands (R271, R274); a host transaction checks none. -/
def commandCheck : Instr → State → ErrCode
  | .expkey, s => if s.keylen = 16 then .none else .invalidLength
  | .xform, s => if s.blklen = 16 then .none else .invalidLength
  | .xformRev, s => if s.blklen = 16 then .none else .invalidLength
  | .hcomp, s => if s.mblen = 64 then .none else .invalidLength
  | .hchunk, s =>
    if s.params.msgBytes < s.msglen.toNat then .msgTooLong
    else if blockCount s.msglen.toNat ≤ s.chunkidx.toNat then .chunkRange else .none
  | .hdigest, s => if s.params.msgBytes < s.msglen.toNat then .msgTooLong else .none
  | _, _ => .none

/-- The writes of a command's row of R122, before the completion status; a host transaction writes no result. -/
def commandWrites : Instr → State → State
  | .tblinit, s => { s with tbl := combinedTable, tblValid := true }
  | .expkey, s => { s with rk := expandKeyFn s.key }
  | .xform, s => { s.ensureTable with dout := transformResult false s.ensureTable }
  | .xformRev, s => { s.ensureTable with dout := transformResult true s.ensureTable }
  | .hinit, s => { s with hstate := initialVector }
  | .hcomp, s => { s with hstate := compressFn s.hstate s.mb }
  | .hchunk, s => { s with mb := chunkWords s.message s.chunkidx.toNat, mblen := 64 }
  | .hdigest, s => { s with hstate := digestState s.message }
  | _, s => s

/-- All of a command's writes or none of them (R275). -/
def commandEffect (i : Instr) (s : State) : State := if commandCheck i s = .none then commandWrites i s else s

theorem commandEffect_cases (i : Instr) (s : State) :
    commandEffect i s = commandWrites i s ∨ commandEffect i s = s := by
  unfold commandEffect
  exact ite_eq_or_eq _ _ _

theorem exec_command_eq {i : Instr} (hi : isCommand i = true) (s : State) :
    exec i s = .next ((commandEffect i s).raiseError (commandCheck i s)) := by
  cases i with
  | rd32 off => cases hi
  | wr32 off v => cases hi
  | tblinit => rfl
  | hinit => rfl
  | expkey =>
    rw [exec, execExpkey, expkeyResult_eq, commandEffect, commandCheck]
    split <;> rfl
  | xform =>
    rw [exec, execXform, xformResult_eq, commandEffect, commandCheck]
    split <;> rfl
  | xformRev =>
    rw [exec, execXformRev, xformResult_eq, commandEffect, commandCheck]
    split <;> rfl
  | hcomp =>
    rw [exec, execHcomp, hcompResult_eq, commandEffect, commandCheck]
    split <;> rfl
  | hchunk =>
    rw [exec, execHchunk, hchunkResult_eq, commandEffect, commandCheck, nblkOf]
    split
    · rfl
    · split <;> rfl
  | hdigest =>
    rw [exec, execHdigest, hdigestResult_eq, commandEffect, commandCheck]
    split <;> rfl

theorem exec_of_check_passes {i : Instr} (hi : isCommand i = true) {s : State} (h : commandCheck i s = .none) :
    exec i s = .next (commandWrites i s).commit := by
  rw [exec_command_eq hi, commandEffect, if_pos h, h]
  rfl

theorem exec_of_check_fails {i : Instr} (hi : isCommand i = true) {s : State} {c : ErrCode} (h : commandCheck i s = c)
    (hc : c ≠ .none) : exec i s = .next (s.raiseError c) := by
  rw [exec_command_eq hi, commandEffect, h, if_neg hc]

/-! ### What a command leaves alone (R122) -/

theorem State.ResultsOnly.rdata_eq {s t : State} (h : s.ResultsOnly t) : t.rdata = s.rdata := by
  rw [State.ResultsOnly] at h
  rw [h]

theorem State.ResultsOnly.resetLine_eq {s t : State} (h : s.ResultsOnly t) : t.resetLine = s.resetLine := by
  rw [State.ResultsOnly] at h
  rw [h]

theorem State.ResultsOnly.inputs_eq {s t : State} (h : s.ResultsOnly t) : t.inputs = s.inputs := by
  rw [State.ResultsOnly] at h
  rw [h]

theorem State.ResultsOnly.params_eq {s t : State} (h : s.ResultsOnly t) : t.params = s.params := by
  rw [State.ResultsOnly] at h
  rw [h]

theorem State.ResultsOnly.msgmem_eq {s t : State} (h : s.ResultsOnly t) : t.msgmem = s.msgmem := by
  rw [State.ResultsOnly] at h
  rw [h]

theorem commandWrites_resultsOnly (i : Instr) (s : State) : s.ResultsOnly (commandWrites i s) := by
  cases i <;> rfl

theorem commandEffect_resultsOnly (i : Instr) (s : State) : s.ResultsOnly (commandEffect i s) := by
  obtain h | h := commandEffect_cases i s
  · exact h ▸ commandWrites_resultsOnly i s
  · exact h.symm ▸ rfl

/-- Each result register is written by its own rows of R122 only. -/
theorem commandWrites_results (i : Instr) (s : State) :
    let t := commandWrites i s
    (i ≠ .expkey → t.rk = s.rk) ∧ (i ≠ .xform → i ≠ .xformRev → t.dout = s.dout) ∧
    (i ≠ .hinit → i ≠ .hcomp → i ≠ .hdigest → t.hstate = s.hstate) ∧
    (i ≠ .hchunk → t.mb = s.mb ∧ t.mblen = s.mblen) ∧
    (i ≠ .tblinit → i ≠ .xform → i ≠ .xformRev → t.tbl = s.tbl ∧ t.tblValid = s.tblValid) := by
  cases i <;> simp [commandWrites]

/-- A command that writes the table store writes the combined table (10_state.md R52). -/
theorem commandEffect_tableOk (i : Instr) (s : State) (h : s.tableOk) : (commandEffect i s).tableOk := by
  obtain hwrites | hnone := commandEffect_cases i s
  · rw [hwrites]
    cases i with
    | tblinit => exact fun _ => rfl
    | xform => exact fun _ => s.ensureTable_tbl_of_valid h
    | xformRev => exact fun _ => s.ensureTable_tbl_of_valid h
    | _ => exact h
  · exact hnone.symm ▸ h

/-! ### What a command does not read (10_state.md R34, R57) -/

/-- `s` with other values in what the host alone reads and writes: CMD_LAST, CTRL.IE, STATUS.DONE, STATUS.HZ and the answer
to the host. -/
def State.withHostFields (s : State) (c : Word) (ie done hz : Bool) (rd : Option Word) : State :=
  { s with cmdLast := c, ie := ie, done := done, hz := hz, rdata := rd }

theorem commandCheck_withHostFields (i : Instr) (s : State) (c : Word) (ie done hz : Bool) (rd : Option Word) :
    commandCheck i (s.withHostFields c ie done hz rd) = commandCheck i s := by
  cases i <;> rfl

theorem commandEffect_withHostFields (i : Instr) (s : State) (c : Word) (ie done hz : Bool) (rd : Option Word) :
    commandEffect i (s.withHostFields c ie done hz rd) = (commandEffect i s).withHostFields c ie done hz rd := by
  have hwrites : commandWrites i (s.withHostFields c ie done hz rd) =
      (commandWrites i s).withHostFields c ie done hz rd := by
    cases i <;> rfl
  rw [commandEffect, commandEffect, commandCheck_withHostFields, hwrites]
  split <;> rfl

theorem exec_withHostFields {i : Instr} (hi : isCommand i = true) {s t : State} (h : exec i s = .next t) (c : Word)
    (ie done hz : Bool) (rd : Option Word) :
    exec i (s.withHostFields c ie done hz rd) = .next (t.withHostFields c ie true hz rd) := by
  rw [exec_command_eq hi] at h ⊢
  cases h
  rw [commandEffect_withHostFields, commandCheck_withHostFields]
  rfl

end Sys2Proof.Machine
end

section
/-! CERTIFICATES. The eight commands: their codes, their frame, what they do not read, and the short completions
(10_state.md R34, R57; 30_encoding.md R122; R160, R181, R226, R227, R270, R271, R274). -/

namespace Sys2Proof.Machine

/-- Settles O41: the completion raises the code of the first failing check, which is the table of the rule. -/
theorem commandsReportOneCode : Obligations.CommandsReportOneCode := by
  unfold Obligations.CommandsReportOneCode
  intro i s hi
  refine ⟨_, exec_command_eq hi s, rfl, rfl, rfl, ?_⟩
  cases i <;> rfl

/-- Settles O43: a completion changes the status and what the command writes, each result by its own rows only. -/
theorem commandsKeepWhatTheyDoNotWrite : Obligations.CommandsKeepWhatTheyDoNotWrite := by
  unfold Obligations.CommandsKeepWhatTheyDoNotWrite
  intro i s t hi ht
  rw [exec_command_eq hi] at ht
  cases ht
  refine ⟨?_, ?_⟩
  · have hresults := commandEffect_resultsOnly i s
    rw [State.ResultsOnly] at hresults
    rw [hresults]
    exact ⟨rfl, rfl, rfl, rfl, rfl, rfl, rfl, rfl, rfl, rfl, rfl, rfl, rfl, fun _ => rfl⟩
  · obtain hwrites | hnone := commandEffect_cases i s
    · rw [hwrites]
      exact commandWrites_results i s
    · rw [hnone]
      exact ⟨fun _ => rfl, fun _ _ => rfl, fun _ _ _ => rfl, fun _ => ⟨rfl, rfl⟩, fun _ _ _ => ⟨rfl, rfl⟩⟩

/-- Settles O44: neither the check nor the writes of a command read these fields, and no command writes them. -/
theorem commandsDoNotReadCtrlOrHz : Obligations.CommandsDoNotReadCtrlOrHz := by
  unfold Obligations.CommandsDoNotReadCtrlOrHz
  intro i s t ie hz c hi ht
  calc exec i (s.withHostFields c ie s.done hz s.rdata)
    _ = .next (t.withHostFields c ie true hz s.rdata) := exec_withHostFields hi ht c ie s.done hz s.rdata
    _ = .next { t with ie := ie, hz := hz, cmdLast := c } := by
      rw [exec_command_eq hi] at ht
      cases ht
      rw [← (commandEffect_resultsOnly i s).rdata_eq]
      rfl

/-- Settles O22: TBLINIT has no check. -/
theorem tblinitBuildsTheTable : Obligations.TblinitBuildsTheTable := by
  unfold Obligations.TblinitBuildsTheTable
  intro s
  exact exec_of_check_passes rfl rfl

/-- Settles O24: the one check is KEYLEN's. -/
theorem expkeyWritesTheRoundKeys : Obligations.ExpkeyWritesTheRoundKeys := by
  unfold Obligations.ExpkeyWritesTheRoundKeys
  intro s
  exact ⟨fun hlen => exec_of_check_passes rfl (if_pos hlen), fun hlen => exec_of_check_fails rfl (if_neg hlen) nofun⟩

/-- Settles O36: HINIT has no check, and its vector is R219's. -/
theorem hinitLoadsTheInitialVector : Obligations.HinitLoadsTheInitialVector := by
  unfold Obligations.HinitLoadsTheInitialVector
  intro s
  exact exec_of_check_passes rfl rfl

/-- Settles O37: the one check is MBLEN's. -/
theorem hcompCompressesOneBlock : Obligations.HcompCompressesOneBlock := by
  unfold Obligations.HcompCompressesOneBlock
  intro s
  exact ⟨fun hlen => exec_of_check_passes rfl (if_pos hlen), fun hlen => exec_of_check_fails rfl (if_neg hlen) nofun⟩

end Sys2Proof.Machine
end

section
/-! SUPPORT. The register map read forwards: an access at a location's offset goes to it (20_memory.md R82 to R87), and what
the transactions there do. -/

namespace Sys2Proof.Machine

/-! ### The offsets -/

/-- The locations of MSGMEM are the only ones whose presence depends on the capacity. -/
theorem locate_offset (mb : Nat) {l : Loc} (hl : ∀ a, l ≠ .msg a) : locate mb l.offset = .ok l := by
  cases l with
  | key j => exact locate_of_locOf _ _ _ (by simp only [Loc.offset]; omega) (locOf_key _ _ j rfl)
  | din j => exact locate_of_locOf _ _ _ (by simp only [Loc.offset]; omega) (locOf_din _ _ j rfl)
  | dout j => exact locate_of_locOf _ _ _ (by simp only [Loc.offset]; omega) (locOf_dout _ _ j rfl)
  | rk i => exact locate_of_locOf _ _ _ (by simp only [Loc.offset]; omega) (locOf_rk _ _ i rfl)
  | state j => exact locate_of_locOf _ _ _ (by simp only [Loc.offset]; omega) (locOf_state _ _ j rfl)
  | mb j => exact locate_of_locOf _ _ _ (by simp only [Loc.offset]; omega) (locOf_mb _ _ j rfl)
  | tbl i b => exact locate_of_locOf _ _ _ (by simp only [Loc.offset]; omega) (locOf_tbl _ _ i b rfl)
  | msg a => exact absurd rfl (hl a)
  | _ => exact locate_of_controlLoc mb rfl

theorem locate_msg {mb a : Nat} (hmb : mb ≤ 0x100000) (h4 : a % 4 = 0) (ha : a + 3 < mb) :
    locate mb (0x100000 + a) = .ok (.msg a) :=
  locate_of_locOf _ _ _ (by omega) (locOf_msg _ _ a hmb ha rfl)

/-- The top region of the map: a MSGMEM word is there when all its bytes are (R87). -/
theorem locOf_msgmem (mb : Nat) {off : Nat} (h : 0x100000 ≤ off) :
    locOf mb off =
      if off < Config.windowBytes ∧ off - 0x100000 + 3 < mb then some (.msg (off - 0x100000)) else none := by
  rw [locOf]
  iterate 12 rw [if_neg (by omega)]

theorem msg_of_locate {mb off a : Nat} (h : locate mb off = .ok (.msg a)) : a % 4 = 0 ∧ a + 3 < mb := by
  obtain ⟨h4, hloc⟩ := (locate_ok mb off _).mp h
  obtain rfl : 0x100000 + a = off := offset_of_locate h
  rw [locOf_msgmem mb (by omega)] at hloc
  split at hloc
  · omega
  · cases hloc

/-! ### The transactions at a register -/

theorem exec_rd32_of_readLoc {s : State} {off : Nat} {l : Loc} {v : Word} (hloc : locate s.params.msgBytes off = .ok l)
    (hv : s.readLoc l = .ok v) : exec (.rd32 off) s = .next { s with rdata := some v } := by
  rw [exec, execRd32_of_locate off s l hloc, hv]

theorem exec_rd32_register (s : State) {l : Loc} {v : Word} (hl : ∀ a, l ≠ .msg a) (hv : s.readLoc l = .ok v) :
    exec (.rd32 l.offset) s = .next { s with rdata := some v } :=
  exec_rd32_of_readLoc (locate_offset _ hl) hv

theorem State.writeLoc_of_idle {s : State} (hidle : s.busy = false) (l : Loc) (v : Word) :
    s.writeLoc l v = s.storeLoc l v := by
  cases l <;> simp [State.writeLoc, State.storeLoc, hidle]

theorem exec_wr32_of_idle {s : State} {off : Nat} {l : Loc} (hidle : s.busy = false)
    (hloc : locate s.params.msgBytes off = .ok l) (hrw : l.readOnly = false) (v : Word) :
    exec (.wr32 off v) s = .next (s.storeLoc l v) := by
  rw [exec, execWr32_of_locate off s l v hloc hrw, State.writeLoc_of_idle hidle]

theorem exec_wr32_register {s : State} (hidle : s.busy = false) {l : Loc} (hl : ∀ a, l ≠ .msg a)
    (hrw : l.readOnly = false) (v : Word) : exec (.wr32 l.offset v) s = .next (s.storeLoc l v) :=
  exec_wr32_of_idle hidle (locate_offset _ hl) hrw v

theorem exec_wr32_readOnly_register (s : State) {l : Loc} (hl : ∀ a, l ≠ .msg a) (hro : l.readOnly = true) (v : Word) :
    exec (.wr32 l.offset v) s = .fault (.busError .readOnly) :=
  exec_wr32_of_readOnly (locate_offset _ hl) hro v

/-! ### The words of CTRL and STATUS -/

theorem State.ctrlWord_eq (s : State) : s.ctrlWord = if s.ie then 1 else 0 := by
  rw [State.ctrlWord]
  cases s.ie <;> rfl

theorem getLsbD_bitAt {n i : Nat} (hi : i < 32) (b : Bool) : (bitAt n b).getLsbD i = (decide (i = n) && b) := by
  cases b
  · simp [bitAt]
  · simp only [bitAt, BitVec.getLsbD_shiftLeft, BitVec.getLsbD_setWidth, BitVec.getLsbD_ofBool, hi, decide_true,
      Bool.true_and, Bool.and_true]
    rcases Nat.lt_trichotomy i n with hlt | rfl | hgt
    · simp [hlt, hlt.ne]
    · simp
    · simp [hgt.ne', show ¬ i < n by omega, show i - n ≠ 0 by omega]

/-- STATUS bit by bit (10_state.md R33). -/
theorem getLsbD_statusWord (s : State) {i : Nat} (hi : i < 32) :
    s.statusWord.getLsbD i =
      (decide (i = 0) && s.busy || decide (i = 1) && s.done || decide (i = 2) && s.errFlag ||
        !decide (i < 4) && s.errcode.code.getLsbD (i - 4) || decide (i = 8) && s.tblValid || decide (i = 9) && s.hz ||
        decide (i = 10) && s.irq) := by
  have hcode : (s.errcode.code.setWidth 32 <<< 4).getLsbD i = (!decide (i < 4) && s.errcode.code.getLsbD (i - 4)) := by
    simp [hi]
  simp only [State.statusWord, BitVec.getLsbD_or, getLsbD_bitAt hi, hcode]

theorem State.errFlag_eq (s : State) : s.errFlag = decide (s.errcode ≠ .none) := by
  rw [State.errFlag]
  cases s.errcode <;> rfl

/-! ### A write and a read of a MSGMEM word -/

/-- A word written is the word read (R87, R88). -/
theorem State.msgWord_writeMsgWord (s : State) (a : Nat) (v : Word) : (s.writeMsgWord a v).msgWord a = v := by
  simp only [State.msgWord, State.msgByte_writeMsgWord]
  simpa using be32_byteLanes v

end Sys2Proof.Machine
end

section
/-! CERTIFICATES. The register map, host reads and host writes (10_state.md R33, R34; 20_memory.md R82 to R95). -/

namespace Sys2Proof.Machine

/-- Settles O5: the map is read backwards by `offset_of_locate` and forwards by `locate_offset`; MSGMEM alone has a
condition. -/
theorem offsetsNameTheirLocations : Obligations.OffsetsNameTheirLocations := by
  unfold Obligations.OffsetsNameTheirLocations
  refine fun mb hmb off l => ⟨fun h => ⟨(offset_of_locate h).symm, ?_⟩, ?_⟩
  · rintro a rfl
    exact msg_of_locate h
  · rintro ⟨rfl, hmsg⟩
    by_cases hl : ∃ a, l = .msg a
    · obtain ⟨a, rfl⟩ := hl
      obtain ⟨h4, ha⟩ := hmsg a rfl
      exact locate_msg hmb h4 ha
    · exact locate_offset mb fun a ha => hl ⟨a, ha⟩

/-- Settles O8: these are read-only locations, and the bus error does not ask for BUSY. -/
theorem readOnlyWritesAreBusErrors : Obligations.ReadOnlyWritesAreBusErrors := by
  unfold Obligations.ReadOnlyWritesAreBusErrors
  exact fun s v => ⟨exec_wr32_readOnly_register s (l := .nblk) nofun rfl v,
    exec_wr32_readOnly_register s (l := .msgcap) nofun rfl v,
    fun j => exec_wr32_readOnly_register s (l := .dout j) nofun rfl v⟩

/-- Settles O10: each offset is its register's, whose read is R94's value. -/
theorem readsReturnTheRegisters : Obligations.ReadsReturnTheRegisters := by
  unfold Obligations.ReadsReturnTheRegisters
  intro s
  refine ⟨exec_rd32_register s (l := .cmd) nofun rfl, exec_rd32_register s (l := .status) nofun rfl, ?_,
    exec_rd32_register s (l := .keylen) nofun rfl, exec_rd32_register s (l := .blklen) nofun rfl,
    exec_rd32_register s (l := .mblen) nofun rfl, exec_rd32_register s (l := .msglen) nofun rfl,
    exec_rd32_register s (l := .chunkidx) nofun rfl, exec_rd32_register s (l := .nblk) nofun rfl,
    exec_rd32_register s (l := .msgcap) nofun rfl, fun j => exec_rd32_register s (l := .key j) nofun rfl,
    fun j => exec_rd32_register s (l := .din j) nofun rfl, fun j => exec_rd32_register s (l := .dout j) nofun rfl,
    fun i => exec_rd32_register s (l := .rk i) nofun rfl, fun j => exec_rd32_register s (l := .state j) nofun rfl,
    fun j => exec_rd32_register s (l := .mb j) nofun rfl⟩
  rw [← State.ctrlWord_eq]
  exact exec_rd32_register s (l := .ctrl) nofun rfl

/-- Settles O12: each bit of the word is its own field's, by `getLsbD_statusWord`. -/
theorem statusWordHoldsItsFields : Obligations.StatusWordHoldsItsFields := by
  unfold Obligations.StatusWordHoldsItsFields
  intro s
  have hcode : s.statusWord.extractLsb' 4 4 = s.errcode.code := by
    apply BitVec.eq_of_getLsbD_eq
    intro k hk
    rw [BitVec.getLsbD_extractLsb', getLsbD_statusWord s (by omega)]
    simp [hk, show 4 + k ≠ 1 by omega, show 4 + k ≠ 2 by omega, show 4 + k ≠ 8 by omega, show 4 + k ≠ 9 by omega,
      show 4 + k ≠ 10 by omega]
  have hhigh : s.statusWord.extractLsb' 11 21 = 0 := by
    apply BitVec.eq_of_getLsbD_eq
    intro k hk
    rw [BitVec.getLsbD_extractLsb', getLsbD_statusWord s (by omega), BitVec.getLsbD_of_ge s.errcode.code _ (by omega)]
    simp [show 11 + k ≠ 1 by omega, show 11 + k ≠ 2 by omega, show 11 + k ≠ 8 by omega, show 11 + k ≠ 9 by omega,
      show 11 + k ≠ 10 by omega]
  refine ⟨?_, ?_, ?_, ?_, ?_, ?_, ?_, ?_, hhigh⟩
  · rw [getLsbD_statusWord s (by decide)]
    simp
  · rw [getLsbD_statusWord s (by decide)]
    simp
  · rw [getLsbD_statusWord s (by decide)]
    simp [State.errFlag_eq]
  · rw [getLsbD_statusWord s (by decide)]
    simp
  · rw [hcode]
    cases s.errcode <;> rfl
  · rw [getLsbD_statusWord s (by decide)]
    simp
  · rw [getLsbD_statusWord s (by decide)]
    simp
  · rw [getLsbD_statusWord s (by decide)]
    simp [State.irq]

/-- Settles O14: the two writes are performed in every state; a conjunction with a negated bit is the rule's case form. -/
theorem statusAndCtrlWritesAreNeverDropped : Obligations.StatusAndCtrlWritesAreNeverDropped := by
  unfold Obligations.StatusAndCtrlWritesAreNeverDropped
  refine fun s v => ⟨?_, exec_wr32_ctrl s v⟩
  have hclear (b c : Bool) : (b && !c) = if c then false else b := by cases b <;> cases c <;> rfl
  rw [exec_wr32_status, State.writeStatus, hclear, hclear]

/-- Settles O15: each offset is its register's, and an idle write there is performed. -/
theorem idleWritesStoreTheWord : Obligations.IdleWritesStoreTheWord := by
  unfold Obligations.IdleWritesStoreTheWord
  exact fun s v hidle => ⟨exec_wr32_register hidle (l := .keylen) nofun rfl v,
    exec_wr32_register hidle (l := .blklen) nofun rfl v, exec_wr32_register hidle (l := .mblen) nofun rfl v,
    exec_wr32_register hidle (l := .msglen) nofun rfl v, exec_wr32_register hidle (l := .chunkidx) nofun rfl v,
    fun j => exec_wr32_register hidle (l := .key j) nofun rfl v,
    fun j => exec_wr32_register hidle (l := .din j) nofun rfl v,
    fun i => exec_wr32_register hidle (l := .rk i) nofun rfl v,
    fun j => exec_wr32_register hidle (l := .state j) nofun rfl v,
    fun j => exec_wr32_register hidle (l := .mb j) nofun rfl v⟩

/-- Settles O16: the next state is the word written, whose bytes are read by `msgByte_writeMsgWord`. -/
theorem messageWritesAreBigEndianAndReadBack : Obligations.MessageWritesAreBigEndianAndReadBack := by
  unfold Obligations.MessageWritesAreBigEndianAndReadBack
  intro s a v hcap hidle h4 ha
  have hloc : locate s.params.msgBytes (0x100000 + a) = .ok (.msg a) := locate_msg hcap h4 ha
  refine ⟨s.writeMsgWord a v, exec_wr32_of_idle hidle hloc rfl v, rfl, ?_, ?_, ?_, ?_, fun b hb => ?_,
    exec_rd32_of_readLoc hloc (congrArg Except.ok (s.msgWord_writeMsgWord a v))⟩
  · simp [State.msgByte_writeMsgWord, byteLane]
  · simp [State.msgByte_writeMsgWord, byteLane]
  · simp [State.msgByte_writeMsgWord, byteLane]
  · simp [State.msgByte_writeMsgWord, byteLane]
  · rw [State.msgByte_writeMsgWord, if_neg (by omega), if_neg (by omega), if_neg (by omega), if_neg (by omega)]

end Sys2Proof.Machine
end

section
/-! SUPPORT. What one event can do (20_memory.md R96), and what the host's events leave alone while a command is in flight
(20_memory.md R98, 70_reset_and_hazards.md R310). -/

namespace Sys2Proof.Machine

/-! ### The events, by what they do -/

/-- What a transaction can do: be a bus error, return a word, or write a location that is there. -/
theorem exec_transaction_cases (write : Bool) (off : Nat) (v : Word) (s : State) :
    (∃ err, exec (transaction write off v) s = .fault (.busError err)) ∨
      (∃ w, exec (transaction write off v) s = .next { s with rdata := some w }) ∨
      ∃ l, locate s.params.msgBytes off = .ok l ∧ exec (transaction write off v) s = .next (s.writeLoc l v) := by
  cases write with
  | false =>
    obtain ⟨w, -, hnext⟩ | ⟨err, -, hfault⟩ := execRd32_cases off s
    · exact .inr (.inl ⟨w, hnext⟩)
    · exact .inl ⟨err, hfault⟩
  | true =>
    obtain ⟨l, hloc, -, hnext⟩ | ⟨err, hfault⟩ := execWr32_cases off v s
    · exact .inr (.inr ⟨l, hloc, hnext⟩)
    · exact .inl ⟨err, hfault⟩

/-- A host event passes the core by, is refused by the bus, or is a transaction with the reset line released. -/
theorem hostEvent_cases {e : Input} (hreset : e.notReset = true) (hengine : e ≠ .engine) (s : State) :
    turn e s = .next s ∨ (∃ err, turn e s = .fault (.busError err)) ∨
      (s.resetLine = false ∧ ∃ write off v, turn e s = exec (transaction write off v) s) := by
  cases e with
  | engine => exact absurd rfl hengine
  | reset asserted => cases hreset
  | record r =>
    rw [turn, decodeRecord_eq_transaction]
    obtain ⟨-, hfault⟩ | ⟨hline, hexec⟩ := hostTurn_cases (transaction _ _ _) s
    · exact .inr (.inl ⟨_, hfault⟩)
    · exact .inr (.inr ⟨hline, _, _, _, hexec⟩)
  | access addr bytes write v =>
    obtain ⟨-, hnext⟩ | hfault | ⟨off, -, -, hline, hexec⟩ := busTurn_cases addr bytes write v s
    · exact .inl hnext
    · exact .inr (.inl hfault)
    · exact .inr (.inr ⟨hline, write, off, v, hexec⟩)

/-! ### Host events while BUSY -/

/-- `t` differs from `s` in nothing but what the host may change while BUSY = 1 (R310). -/
def State.HostOnly (s t : State) : Prop := t = { s with ie := t.ie, done := t.done, hz := t.hz, rdata := t.rdata }

theorem State.HostOnly.busy_eq {s t : State} (h : s.HostOnly t) : t.busy = s.busy := by
  rw [State.HostOnly] at h
  rw [h]

theorem State.HostOnly.inputs_eq {s t : State} (h : s.HostOnly t) : t.inputs = s.inputs := by
  rw [State.HostOnly] at h
  rw [h]

theorem State.hostOnly_writeLoc {s : State} (hbusy : s.busy = true) (l : Loc) (v : Word) :
    s.HostOnly (s.writeLoc l v) := by
  obtain ⟨-, hw⟩ | ⟨-, hw⟩ | ⟨-, -, -, hw⟩ | ⟨-, -, hidle, -⟩ := s.writeLoc_cases l v
  · exact hw ▸ rfl
  · exact hw ▸ rfl
  · exact hw ▸ rfl
  · simp [hbusy] at hidle

theorem hostEvent_hostOnly {e : Input} (hreset : e.notReset = true) (hengine : e ≠ .engine) {s : State}
    (hbusy : s.busy = true) :
    (∃ err, turn e s = .fault (.busError err)) ∨ ∃ t, turn e s = .next t ∧ s.HostOnly t := by
  obtain hnext | hfault | ⟨-, write, off, v, hexec⟩ := hostEvent_cases hreset hengine s
  · exact .inr ⟨s, hnext, rfl⟩
  · exact .inl hfault
  · rw [hexec]
    obtain hfault | ⟨w, hnext⟩ | ⟨l, -, hnext⟩ := exec_transaction_cases write off v s
    · exact .inl hfault
    · exact .inr ⟨_, hnext, rfl⟩
    · exact .inr ⟨_, hnext, State.hostOnly_writeLoc hbusy l v⟩

theorem State.hostOnly_of_turn {e : Input} {s t : State} (hreset : e.notReset = true) (hengine : e ≠ .engine)
    (hbusy : s.busy = true) (ht : turn e s = .next t) : s.HostOnly t := by
  obtain ⟨err, hfault⟩ | ⟨u, hu, honly⟩ := hostEvent_hostOnly hreset hengine hbusy
  · rw [hfault] at ht
    cases ht
  · rw [hu] at ht
    cases ht
    exact honly

/-! ### The engine's turn with a command in flight -/

/-- A word in flight ends with some code on a state in which only results were written, and a table store that was built
right before is right after it. -/
theorem completePending_eq_raiseError (s : State) (p : Word) :
    ∃ r c, completePending s p = .next (r.raiseError c) ∧ s.ResultsOnly r ∧ (s.tableOk → r.tableOk) := by
  obtain ⟨i, -, hi, hturn⟩ | ⟨-, -, hturn⟩ := completePending_cases s p
  · exact ⟨commandEffect i s, commandCheck i s, hturn.trans (exec_command_eq hi s), commandEffect_resultsOnly i s,
      commandEffect_tableOk i s⟩
  · exact ⟨s, .illegalCommand, hturn, rfl, id⟩

/-- With a command in flight the engine's turn completes it and leaves the events to come (R55). -/
theorem engineTurn_completes {s : State} {p : Word} (hline : s.resetLine = false) (hbusy : s.busy = true)
    (hp : s.pending = some p) :
    ∃ u, engineTurn s = .next u ∧ u.busy = false ∧ u.done = true ∧ u.resetLine = false ∧ u.inputs = s.inputs := by
  obtain ⟨r, c, hturn, hresults, -⟩ := completePending_eq_raiseError s p
  exact ⟨r.raiseError c, (engineTurn_of_pending hline hbusy hp).trans hturn, rfl, rfl, hresults.resetLine_eq.trans hline,
    hresults.inputs_eq⟩

theorem engineTurn_of_legal {s : State} {p : Word} {i : Instr} (hline : s.resetLine = false) (hbusy : s.busy = true)
    (hp : s.pending = some p) (hi : decodeCommand p = .ok i) : engineTurn s = exec i s := by
  rw [engineTurn_of_pending hline hbusy hp, completePending, hi]

theorem completePending_withHostFields {s u : State} {p : Word} (h : completePending s p = .next u) (c : Word)
    (ie done hz : Bool) (rd : Option Word) :
    completePending (s.withHostFields c ie done hz rd) p = .next (u.withHostFields c ie true hz rd) := by
  unfold completePending at h ⊢
  split at h
  next i hi => exact exec_withHostFields (isCommand_of_decodeCommand p i hi) h c ie done hz rd
  next =>
    cases h
    rfl

/-! ### One step by its event -/

theorem step_eq_turn {s : State} {e : Input} {rest : List Input} (h : s.inputs = e :: rest) :
    step s = turn e { s with inputs := rest } := by
  rw [step_of_cons s e rest h, State.popInput, h, List.tail_cons]

theorem engineTurn_of_idle {s : State} (h : s.busy = false) : engineTurn s = .next s := by
  obtain ⟨-, -, hbusy, -⟩ | ⟨-, hnext⟩ := engineTurn_cases s
  · simp [h] at hbusy
  · exact hnext

theorem hostTurn_of_released {s : State} (h : s.resetLine = false) (i : Instr) : hostTurn i s = exec i s := by
  simp [hostTurn, h]

theorem busTurn_of_window {s : State} (hline : s.resetLine = false) {off : Nat} (hoff : off ≤ 0x1FFFFF) (write : Bool)
    (v : Word) : busTurn (s.params.base + off) 4 write v s = exec (transaction write off v) s := by
  have hwindow : windowOffset s.params.base (s.params.base + off) = some off := by
    rw [windowOffset, if_pos (by simp only [Config.windowBytes]; omega), Nat.add_sub_cancel_left]
  simp [busTurn, hwindow, hline, hostTurn]

theorem busTurn_outside {s : State} {addr : Nat} (h : addr < s.params.base ∨ s.params.base + 0x200000 ≤ addr)
    (bytes : Nat) (write : Bool) (v : Word) : busTurn addr bytes write v s = .next s := by
  have hwindow : windowOffset s.params.base addr = none := if_neg (by simp only [Config.windowBytes]; omega)
  simp [busTurn, hwindow]

/-- A record that writes STATUS. -/
theorem turn_statusWrite {s : State} (hline : s.resetLine = false) (v : Word) :
    turn (.record (busRecord 1 0x004 v)) s = .next (s.writeStatus v) := by
  rw [turn, decodeRecord_busRecord_write (by decide), hostTurn_of_released hline, exec_wr32_status]

theorem decodeCommand_of_decodeTableWord {nbits w : Nat} {i : Instr} (hn : nbits ≤ 32)
    (h : decodeTableWord nbits w = some i) : decodeCommand (BitVec.ofNat 32 w) = .ok i := by
  rw [decodeTableWord, if_pos hn] at h
  split at h
  · cases hd : decodeCommand (BitVec.ofNat 32 w) with
    | ok j => rw [hd] at h; cases h; rfl
    | error e => rw [hd] at h; cases h
  · cases h

theorem decodeRecord_of_decodeTableWord {nbits w : Nat} {i : Instr} (hn : 32 < nbits)
    (h : decodeTableWord nbits w = some i) : decodeRecord (BitVec.ofNat 54 w) = i := by
  rw [decodeTableWord, if_neg (by omega)] at h
  split at h
  · exact Option.some.inj h
  · cases h

end Sys2Proof.Machine
end

section
/-! SUPPORT. Each kind of event keeps the machine's invariant (10_state.md R52, R54, R55, R58; 20_memory.md R86;
70_reset_and_hazards.md R300). -/

namespace Sys2Proof.Machine

theorem State.Inv.popInput {s : State} (h : s.Inv) : s.popInput.Inv :=
  ⟨h.params, h.flight, h.table, h.memory, fun hline => congrArg State.popInput (h.reset hline)⟩

theorem State.Inv.driveReset {s : State} (h : s.Inv) (asserted : Bool) : (s.driveReset asserted).Inv := by
  cases asserted with
  | true => exact ⟨h.params, ⟨rfl, nofun⟩, nofun, ⟨Memory.wf_nil, nofun⟩, fun _ => rfl⟩
  | false => exact ⟨h.params, h.flight, h.table, h.memory, nofun⟩

theorem State.memoryOk_writeMsgWord {s : State} (h : s.memoryOk) {a : Nat} (ha : a + 3 < s.params.msgBytes) (v : Word) :
    (s.writeMsgWord a v).memoryOk := by
  obtain ⟨hwf, hcap⟩ := h
  refine ⟨Memory.wf_writeBytes _ _ _ hwf, fun b hb => ?_⟩
  rw [State.writeMsgWord_msgmem, Memory.read?_writeBytes, length_bytesOfWord] at hb
  split at hb
  · exact (show b < s.params.msgBytes by omega)
  · exact hcap b hb

/-- A performed or dropped write keeps the invariant: acceptance starts a flight, a MSGMEM word lies inside the capacity, and
no other write touches what the invariant speaks of. -/
theorem State.Inv.writeLoc {s : State} (h : s.Inv) (hline : s.resetLine = false) {l : Loc}
    (hcap : ∀ a, l = .msg a → a + 3 < s.params.msgBytes) (v : Word) : (s.writeLoc l v).Inv := by
  obtain ⟨hparams, ⟨hbusy, hclear⟩, htable, hmemory, -⟩ := h
  have hlow : s.resetLine ≠ true := by simp [hline]
  obtain ⟨-, hw⟩ | ⟨-, hw⟩ | ⟨-, -, -, hw⟩ | ⟨hstatus, hctrl, -, hw⟩ := s.writeLoc_cases l v
  · rw [hw]
    refine ⟨hparams, ⟨hbusy, fun hb => ⟨?_, (hclear hb).right⟩⟩, htable, hmemory, fun hhigh => absurd hhigh hlow⟩
    rw [State.writeStatus_done, (hclear hb).left, Bool.false_and]
  · rw [hw]
    exact ⟨hparams, ⟨hbusy, hclear⟩, htable, hmemory, fun hhigh => absurd hhigh hlow⟩
  · rw [hw]
    exact ⟨hparams, ⟨hbusy, hclear⟩, htable, hmemory, fun hhigh => absurd hhigh hlow⟩
  · rw [hw]
    cases l with
    | cmd => exact ⟨hparams, ⟨rfl, fun _ => ⟨rfl, rfl⟩⟩, htable, hmemory, fun hhigh => absurd hhigh hlow⟩
    | msg a =>
      exact ⟨hparams, ⟨hbusy, hclear⟩, htable, State.memoryOk_writeMsgWord hmemory (hcap a rfl) v,
        fun hhigh => absurd hhigh hlow⟩
    | status => exact absurd rfl hstatus
    | ctrl => exact absurd rfl hctrl
    | _ => exact ⟨hparams, ⟨hbusy, hclear⟩, htable, hmemory, fun hhigh => absurd hhigh hlow⟩

theorem State.Inv.transaction {s t : State} (h : s.Inv) (hline : s.resetLine = false) {write : Bool} {off : Nat}
    {v : Word} (ht : exec (transaction write off v) s = .next t) : t.Inv := by
  obtain ⟨err, hfault⟩ | ⟨w, hnext⟩ | ⟨l, hloc, hnext⟩ := exec_transaction_cases write off v s
  · rw [hfault] at ht
    cases ht
  · rw [hnext] at ht
    cases ht
    exact ⟨h.params, h.flight, h.table, h.memory, fun hhigh => absurd hhigh (by simp [hline])⟩
  · rw [hnext] at ht
    cases ht
    refine h.writeLoc hline ?_ v
    rintro a rfl
    exact (msg_of_locate hloc).right

theorem State.Inv.raiseError {s r : State} (h : s.Inv) (hline : s.resetLine = false) (hr : s.ResultsOnly r)
    (htable : r.tableOk) (c : ErrCode) : (r.raiseError c).Inv := by
  refine ⟨?_, ⟨rfl, nofun⟩, htable, ?_, fun hhigh => absurd hhigh (by simp [hr.resetLine_eq, hline])⟩
  · exact hr.params_eq.symm ▸ h.params
  · have hmemory := h.memory
    rw [State.memoryOk, ← hr.msgmem_eq, ← hr.params_eq] at hmemory
    exact hmemory

theorem State.Inv.engineTurn {s t : State} (h : s.Inv) (ht : engineTurn s = .next t) : t.Inv := by
  obtain ⟨p, hline, -, -, hturn⟩ | ⟨-, hnext⟩ := engineTurn_cases s
  · obtain ⟨r, c, hr, hresults, htable⟩ := completePending_eq_raiseError s p
    rw [hturn, hr] at ht
    cases ht
    exact h.raiseError hline hresults (htable h.table) c
  · rw [hnext] at ht
    cases ht
    exact h

theorem State.Inv.turn {e : Input} {s t : State} (h : s.Inv) (ht : turn e s = .next t) : t.Inv := by
  by_cases hreset : ∃ asserted, e = .reset asserted
  · obtain ⟨asserted, rfl⟩ := hreset
    cases ht
    exact h.driveReset asserted
  by_cases hengine : e = .engine
  · subst hengine
    exact h.engineTurn ht
  have hhost : e.notReset = true := by
    cases e with
    | reset asserted => exact absurd ⟨asserted, rfl⟩ hreset
    | _ => rfl
  obtain hnext | ⟨err, hfault⟩ | ⟨hline, write, off, v, hexec⟩ := hostEvent_cases hhost hengine s
  · rw [hnext] at ht
    cases ht
    exact h
  · rw [hfault] at ht
    cases ht
  · exact h.transaction hline (hexec.symm.trans ht)

theorem State.Inv.step {s t : State} (h : s.Inv) (ht : step s = .next t) : t.Inv := by
  cases hin : s.inputs with
  | nil => exact h.engineTurn ((step_of_nil s hin).symm.trans ht)
  | cons e rest => exact h.popInput.turn ((step_of_cons s e rest hin).symm.trans ht)

/-- While BUSY the line is released, since reset clears BUSY, and a word is in flight. -/
theorem State.Inv.inFlight {s : State} (h : s.Inv) (hbusy : s.busy = true) :
    s.resetLine = false ∧ ∃ p, s.pending = some p := by
  obtain ⟨-, ⟨hflight, -⟩, -, -, hreset⟩ := h
  refine ⟨?_, Option.isSome_iff_exists.mp (hflight ▸ hbusy)⟩
  by_contra hline
  rw [hreset (Bool.not_eq_false _ ▸ hline)] at hbusy
  cases hbusy

end Sys2Proof.Machine
end

section
/-! CERTIFICATES. The invariant, the host's events while BUSY, and single steps (10_state.md R55; 20_memory.md R81, R96, R98;
30_encoding.md R124, R128; 60_exceptions.md R282, R288; 70_reset_and_hazards.md R300, R301, R310, R315). -/

namespace Sys2Proof.Machine

/-- Settles O54: nothing is in flight, no table is valid, no byte is written, and the line is released. -/
theorem invariantHoldsAtReset : Obligations.InvariantHoldsAtReset := by
  unfold Obligations.InvariantHoldsAtReset
  exact ⟨by decide, ⟨rfl, nofun⟩, nofun, ⟨Memory.wf_nil, nofun⟩, nofun⟩

/-- Settles O55: the oldest input is taken off, and its turn keeps the invariant. -/
theorem stepKeepsTheInvariant : Obligations.StepKeepsTheInvariant := by
  unfold Obligations.StepKeepsTheInvariant
  exact fun _ _ => State.Inv.step

/-- Settles O46: while BUSY = 1 a host event passes by, reads a word, writes STATUS or CTRL, or is dropped. -/
theorem hostEventsWhileBusyKeepTheOperands : Obligations.HostEventsWhileBusyKeepTheOperands := by
  unfold Obligations.HostEventsWhileBusyKeepTheOperands
  intro e s t hreset hengine hbusy ht
  exact State.hostOnly_of_turn hreset hengine hbusy ht

/-- Settles O47: the event changes only what the host alone reads and writes, and the completion takes no notice of that. -/
theorem resultsAreFixedAtAcceptance : Obligations.ResultsAreFixedAtAcceptance := by
  unfold Obligations.ResultsAreFixedAtAcceptance
  intro e s t u hreset hengine hline hbusy hpending ht hu
  obtain ⟨p, hp⟩ := Option.isSome_iff_exists.mp hpending
  rw [engineTurn_of_pending hline hbusy hp] at hu
  have hsame : t = s.withHostFields s.cmdLast t.ie t.done t.hz t.rdata := State.hostOnly_of_turn hreset hengine hbusy ht
  generalize t.ie = ie, t.done = done, t.hz = hz, t.rdata = rd at hsame
  subst hsame
  exact ⟨u.withHostFields s.cmdLast ie true hz rd,
    (engineTurn_of_pending (s := s.withHostFields s.cmdLast ie done hz rd) hline hbusy hp).trans
      (completePending_withHostFields hu s.cmdLast ie done hz rd),
    rfl, rfl, rfl, rfl, rfl, rfl, rfl, rfl⟩

/-- Settles O48: either way it is the engine's turn, with the word in flight. -/
theorem stepRunsThePendingCommand : Obligations.StepRunsThePendingCommand := by
  unfold Obligations.StepRunsThePendingCommand
  exact fun s p i hline hbusy hp hi =>
    ⟨fun hin => (step_of_nil s hin).trans (engineTurn_of_legal hline hbusy hp hi),
      fun rest hin => (step_eq_turn hin).trans (engineTurn_of_legal (s := { s with inputs := rest }) hline hbusy hp hi)⟩

/-- Settles O49: a record, and a 32-bit access at an address of the window, are the host's turn with the reset line low. -/
theorem stepPerformsTheHostTransaction : Obligations.StepPerformsTheHostTransaction := by
  unfold Obligations.StepPerformsTheHostTransaction
  exact ⟨fun s r rest hline hin => (step_eq_turn hin).trans (hostTurn_of_released (s := { s with inputs := rest }) hline _),
    fun s off write v rest hline hoff hin =>
      (step_eq_turn hin).trans (busTurn_of_window (s := { s with inputs := rest }) hline hoff write v)⟩

/-- Settles O50: the placed word is in flight with the engine's turn next, or is the next record. -/
theorem placedInstructionRunsNext : Obligations.PlacedInstructionRunsNext := by
  unfold Obligations.PlacedInstructionRunsNext
  refine fun s nbits w i hi => ⟨fun hn => ?_, fun hn => ?_⟩
  · rw [State.withFetchWord, State.placeWord, if_pos hn]
    exact (step_eq_turn (e := .engine) (rest := s.inputs) rfl).trans (engineTurn_of_legal
      (s := { s with pending := some (BitVec.ofNat 32 w), busy := true, resetLine := false }) rfl rfl rfl
      (decodeCommand_of_decodeTableWord hn hi))
  · rw [State.withFetchWord, State.placeWord, if_neg (by omega), ← decodeRecord_of_decodeTableWord hn hi]
    exact (step_eq_turn (e := .record (BitVec.ofNat 54 w)) (rest := s.inputs) rfl).trans (hostTurn_of_released (s := { s with resetLine := false }) rfl _)

/-- Settles O51: an idle engine answers its own state, and so does the bus outside the window. -/
theorem idleKeepsAllState : Obligations.IdleKeepsAllState := by
  unfold Obligations.IdleKeepsAllState
  exact ⟨fun s hidle hin => (step_of_nil s hin).trans (engineTurn_of_idle hidle),
    fun s rest hidle hin => (step_eq_turn hin).trans (engineTurn_of_idle (s := { s with inputs := rest }) hidle),
    fun s addr bytes write v rest haddr hin =>
      (step_eq_turn hin).trans (busTurn_outside (s := { s with inputs := rest }) haddr bytes write v)⟩

/-- Settles O53: the reset event is `driveReset`, and the turns of the engine and of the host ask for the line first. -/
theorem resetAbortsTheCommandInFlight : Obligations.ResetAbortsTheCommandInFlight := by
  unfold Obligations.ResetAbortsTheCommandInFlight
  refine ⟨fun s rest hin => ⟨_, step_eq_turn hin, rfl, rfl, rfl, rfl, rfl⟩, fun s rest hin => step_eq_turn hin,
    fun s hline => ⟨?_, fun r => ?_⟩⟩
  · simp only [engineTurn, hline]
  · simp only [turn, hostTurn, hline, if_true]

/-- Settles O57: a completion sets DONE, and the write clears it; each order ends with what came last. -/
theorem completionAndStatusWriteInEitherOrder : Obligations.CompletionAndStatusWriteInEitherOrder := by
  unfold Obligations.CompletionAndStatusWriteInEitherOrder
  refine fun s p v rest hline hbusy hdone hp hv => ⟨fun hin => ?_, fun hin => ?_⟩
  · have hwrite : step s = .next ({ s with inputs := .engine :: rest }.writeStatus v) :=
      (step_eq_turn hin).trans (turn_statusWrite (s := { s with inputs := .engine :: rest }) hline v)
    obtain ⟨u, hu, -, hset, -⟩ := engineTurn_completes (s := { s with inputs := rest }.writeStatus v) hline hbusy hp
    exact ⟨_, u, hwrite, by rw [State.writeStatus_done, hdone, Bool.false_and],
      (step_eq_turn (e := .engine) (rest := rest) rfl).trans hu, hset⟩
  · obtain ⟨t, ht, -, hset, hline', hin'⟩ :=
      engineTurn_completes (s := { s with inputs := .record (busRecord 1 0x004 v) :: rest }) hline hbusy hp
    have hwrite : step t = .next ({ t with inputs := rest }.writeStatus v) :=
      (step_eq_turn hin').trans (turn_statusWrite (s := { t with inputs := rest }) hline' v)
    exact ⟨t, _, (step_eq_turn hin).trans ht, hset, hwrite,
      by rw [State.writeStatus_done, hv, Bool.not_true, Bool.and_false]⟩

theorem run_succ_of_step {M : Host.Core} {s t : M.State} (h : M.step s = .next t) (k : Nat) :
    M.run (k + 1) s = M.run k t := by
  rw [Host.Core.run, h]

theorem run_succ_of_fault {M : Host.Core} {s : M.State} {r : M.Fault} (h : M.step s = .fault r) (k : Nat) :
    M.run (k + 1) s = .fault r := by
  rw [Host.Core.run, h]

/-- Settles O56: by induction on the inputs to come; the engine's turn completes the command, and any other event is a bus
error or leaves the command in flight. -/
theorem acceptedCommandsComplete : Obligations.AcceptedCommandsComplete := by
  unfold Obligations.AcceptedCommandsComplete
  intro s hinv hbusy hinputs
  induction hin : s.inputs generalizing s with
  | nil =>
    obtain ⟨hline, p, hp⟩ := hinv.inFlight hbusy
    obtain ⟨u, hu, hidle, hset, -⟩ := engineTurn_completes hline hbusy hp
    exact ⟨1, le_rfl, .inl ⟨u, run_succ_of_step (M := Sys2Proof.core) ((step_of_nil s hin).trans hu) 0, hidle, hset⟩⟩
  | cons e rest ih =>
    have hhost : e.notReset = true := hinputs e (hin ▸ List.mem_cons_self)
    by_cases hengine : e = .engine
    · subst hengine
      obtain ⟨hline, p, hp⟩ := hinv.inFlight hbusy
      obtain ⟨u, hu, hidle, hset, -⟩ := engineTurn_completes (s := { s with inputs := rest }) hline hbusy hp
      exact ⟨1, Nat.le_add_left 1 _, .inl ⟨u, run_succ_of_step (M := Sys2Proof.core) ((step_eq_turn hin).trans hu) 0, hidle, hset⟩⟩
    · obtain ⟨err, hfault⟩ | ⟨t, ht, honly⟩ := hostEvent_hostOnly (s := { s with inputs := rest }) hhost hengine hbusy
      · exact ⟨1, Nat.le_add_left 1 _, .inr ⟨err, run_succ_of_fault (M := Sys2Proof.core) ((step_eq_turn hin).trans hfault) 0⟩⟩
      · have hstep : step s = .next t := (step_eq_turn hin).trans ht
        have hin' : t.inputs = rest := honly.inputs_eq
        have hrest : ∀ e' ∈ t.inputs, e'.notReset = true := fun e' he' =>
          hinputs e' (hin ▸ List.mem_cons_of_mem e (hin' ▸ he'))
        obtain ⟨k, hk, hend⟩ := ih t (hinv.step hstep) (honly.busy_eq.trans hbusy) hrest hin'
        refine ⟨k + 1, Nat.succ_le_succ hk, ?_⟩
        rw [run_succ_of_step (M := Sys2Proof.core) hstep]
        exact hend

end Sys2Proof.Machine
end

section
/-! CERTIFICATES. Several instances (00_scope.md R10, 20_memory.md R80, R81, 43_orchestrator.md R257). -/

namespace Sys2Proof.Machine

/-- Windows are 2 MiB and aligned to 2 MiB, so an address lies in the one window that starts at its own multiple. -/
theorem base_of_windowOffset {p : Config.Params} (hp : p.wf) {addr : Nat}
    (h : (windowOffset p.base addr).isSome = true) : p.base = addr / 0x200000 * 0x200000 := by
  obtain ⟨haligned, -⟩ := hp
  rw [windowOffset] at h
  split at h
  next hin =>
    simp only [Config.windowBytes] at haligned hin
    omega
  next => cases h

theorem Platform.stepAt_keeps_others {p q : Platform} {k j : Nat} (h : p.stepAt k = .next q) (hj : j ≠ k) :
    q.instances[j]? = p.instances[j]? := by
  unfold Platform.stepAt at h
  split at h
  · cases h
    rfl
  · split at h <;> cases h
    exact List.getElem?_set_ne hj.symm

/-- All instances an address is addressed to have one BASE, and no two instances share theirs. -/
theorem Platform.length_addressed_le_one {p : Platform} (hp : p.wf) (addr : Nat) : (p.addressed addr).length ≤ 1 := by
  obtain ⟨-, hparams, hbases⟩ := hp
  have hsame : ∀ b ∈ (p.addressed addr).map fun s => s.params.base, b = addr / 0x200000 * 0x200000 := by
    intro b hb
    obtain ⟨s, hs, rfl⟩ := List.mem_map.mp hb
    obtain ⟨hmem, hwindow⟩ := List.mem_filter.mp hs
    exact base_of_windowOffset (hparams s hmem) hwindow
  have hnodup : ((p.addressed addr).map fun s => s.params.base).Nodup :=
    hbases.sublist (List.filter_sublist.map _)
  rw [List.eq_replicate_of_mem hsame, List.nodup_replicate, List.length_map] at hnodup
  exact hnodup

/-- Settles O58: a step writes the list at its own index, and an address lies in the window of at most one BASE. -/
theorem instancesShareNothing : Obligations.InstancesShareNothing := by
  unfold Obligations.InstancesShareNothing
  exact ⟨fun _ _ _ _ => Platform.stepAt_keeps_others, fun _ => Platform.length_addressed_le_one⟩

end Sys2Proof.Machine
end

section
/-! SUPPORT. Rotation, diffusion and the combined table (00_scope.md R12, 40_primitives.md R152 to R161). -/

namespace Sys2Proof.Machine

/-! ### Rotation and the diffusions -/

/-- One bit of a rotated word comes from one place, counted around the word. -/
theorem getLsbD_rotl_mod (x : Word) {n i : Nat} (hn : n < 32) (hi : i < 32) :
    (rotl x n).getLsbD i = x.getLsbD ((i + (32 - n)) % 32) := by
  rw [getLsbD_rotl x n hn]
  split
  · rw [Nat.mod_eq_of_lt (by omega), Nat.add_comm]
  · rw [decide_eq_true hi, Bool.true_and]
    congr 1
    omega

theorem rotl_comm (x : Word) {m n : Nat} (hm : m < 32) (hn : n < 32) : rotl (rotl x m) n = rotl (rotl x n) m := by
  apply BitVec.eq_of_getLsbD_eq
  intro i hi
  rw [getLsbD_rotl_mod _ hn hi, getLsbD_rotl_mod _ hm (Nat.mod_lt _ (by decide)), getLsbD_rotl_mod _ hm hi,
    getLsbD_rotl_mod _ hn (Nat.mod_lt _ (by decide))]
  congr 1
  omega

theorem diffuse_xor (a b : Word) : diffuse (a ^^^ b) = diffuse a ^^^ diffuse b := by
  simp only [diffuse, rotl_xor]
  ac_rfl

theorem diffuseKey_xor (a b : Word) : diffuseKey (a ^^^ b) = diffuseKey a ^^^ diffuseKey b := by
  simp only [diffuseKey, rotl_xor]
  ac_rfl

theorem diffuse_rotl (a : Word) {n : Nat} (hn : n < 32) : diffuse (rotl a n) = rotl (diffuse a) n := by
  simp only [diffuse, rotl_xor]
  rw [rotl_comm a hn (by decide), rotl_comm a hn (by decide), rotl_comm a hn (by decide), rotl_comm a hn (by decide)]

theorem diffuseKey_rotl (a : Word) {n : Nat} (hn : n < 32) : diffuseKey (rotl a n) = rotl (diffuseKey a) n := by
  simp only [diffuseKey, rotl_xor]
  rw [rotl_comm a hn (by decide), rotl_comm a hn (by decide)]

/-! ### Byte lanes -/

theorem getLsbD_intoLane (j : Nat) (b : Byte) {i : Nat} (hi : i < 32) :
    (intoLane j b).getLsbD i = (decide (8 * j ≤ i) && b.getLsbD (i - 8 * j)) := by
  simp only [intoLane, BitVec.getLsbD_shiftLeft, BitVec.getLsbD_setWidth]
  by_cases h : 8 * j ≤ i <;> simp [hi, h, show i - 8 * j < 32 by omega]

/-- A byte in a lane is the byte in lane 0, rotated. -/
theorem intoLane_eq_rotl {j : Nat} (hj : j < 4) (b : Byte) : intoLane j b = rotl (intoLane 0 b) (8 * j) := by
  apply BitVec.eq_of_getLsbD_eq
  intro i hi
  rw [getLsbD_intoLane j b hi, getLsbD_rotl _ _ (by omega)]
  split
  next hlow =>
    have hbeyond : b.getLsbD (32 - 8 * j + i) = false := BitVec.getLsbD_of_ge b _ (by omega)
    rw [getLsbD_intoLane 0 b (by omega)]
    simp [hbeyond, Nat.not_le_of_lt hlow]
  next hhigh =>
    rw [getLsbD_intoLane 0 b (by omega)]
    simp [hi, Nat.le_of_not_lt hhigh]

/-- The lanes do not overlap, so their OR is their XOR. -/
theorem or_lanes_eq_xor_lanes (b0 b1 b2 b3 : Byte) :
    intoLane 3 b3 ||| intoLane 2 b2 ||| intoLane 1 b1 ||| intoLane 0 b0 =
      intoLane 0 b0 ^^^ intoLane 1 b1 ^^^ intoLane 2 b2 ^^^ intoLane 3 b3 := by
  apply BitVec.eq_of_getLsbD_eq
  intro i hi
  simp only [BitVec.getLsbD_or, BitVec.getLsbD_xor, getLsbD_intoLane _ _ hi]
  rcases (by omega : i < 8 ∨ (8 ≤ i ∧ i < 16) ∨ (16 ≤ i ∧ i < 24) ∨ 24 ≤ i) with h | h | h | h <;> grind

/-! ### The table lookup (R159) -/

/-- The lookup is the XOR of the four bytes' entries, each the diffusion of one lane of tau; diffusion is linear. -/
theorem lookupF_combinedTable (x : Word) : lookupF combinedTable x = roundT x := by
  have hentry {i : Nat} (hi : i < 4) (b : Byte) :
      (combinedTable[i])[b.toNat]'b.isLt = diffuse (intoLane i (sbox b)) := by
    rw [combinedTable_entry hi, BitVec.ofNat_toNat, BitVec.setWidth_eq]
  rw [lookupF, hentry (i := 0) (by decide), hentry (i := 1) (by decide), hentry (i := 2) (by decide),
    hentry (i := 3) (by decide), ← diffuse_xor, ← diffuse_xor, ← diffuse_xor, ← or_lanes_eq_xor_lanes, roundT, tau]

end Sys2Proof.Machine
end

section
/-! CERTIFICATES. The diffusions and the combined table (40_primitives.md R154, R159, R161). -/

namespace Sys2Proof.Machine

/-- Settles O18: both are XORs of rotations, which are linear and commute with each other. -/
theorem diffusionsAreLinear : Obligations.DiffusionsAreLinear := by
  unfold Obligations.DiffusionsAreLinear
  exact ⟨fun a b => ⟨diffuse_xor a b, diffuseKey_xor a b⟩, fun a _ hn => ⟨diffuse_rotl a hn, diffuseKey_rotl a hn⟩⟩

/-- Settles O20: an entry of array i diffuses the same byte in lane i, which is lane 0 rotated. -/
theorem tableColumnsAreRotations : Obligations.TableColumnsAreRotations := by
  unfold Obligations.TableColumnsAreRotations
  intro i b
  calc combinedTable[i][b]
    _ = diffuse (intoLane i (sbox (BitVec.ofNat 8 b))) := combinedTable_entry i.isLt b.isLt
    _ = diffuse (rotl (intoLane 0 (sbox (BitVec.ofNat 8 b))) (8 * i)) := by rw [intoLane_eq_rotl i.isLt]
    _ = rotl (diffuse (intoLane 0 (sbox (BitVec.ofNat 8 b)))) (8 * i) := diffuse_rotl _ (by omega)
    _ = rotl combinedTable[0][b] (8 * i) := congrArg (rotl · _) (combinedTable_entry (by decide) b.isLt).symm

/-- Settles O21: a byte is a legal index, and the lookup is T by `lookupF_combinedTable`. -/
theorem tableLookupIsSubstituteThenDiffuse : Obligations.TableLookupIsSubstituteThenDiffuse := by
  unfold Obligations.TableLookupIsSubstituteThenDiffuse
  intro x
  refine ⟨?_, lookupF_combinedTable x, rfl⟩
  have hindex (v : Vector Word 256) (b : Byte) : v[b.toNat]! = v[b.toNat]'b.isLt := getElem!_pos v b.toNat b.isLt
  simp only [hindex, lookupF]

end Sys2Proof.Machine
end

section
/-! SUPPORT. The block transform undoes itself with the round keys reversed (41_cipher.md R182 to R184). -/

namespace Sys2Proof.Machine

/-- The window read backwards. -/
def Window.reverse (x : Window) : Window := ⟨x.w3, x.w2, x.w1, x.w0⟩

/-- The round is undone by the same round on the window read backwards: F sees the same three words. -/
theorem transformRound_reverse_transformRound (F : Word → Word) (x : Window) (r : Word) :
    transformRound F (transformRound F x r).reverse r = x.reverse := by
  have hsame : x.w3 ^^^ x.w2 ^^^ x.w1 ^^^ r = x.w1 ^^^ x.w2 ^^^ x.w3 ^^^ r := by ac_rfl
  simp only [transformRound, Window.push, Window.reverse, hsame]
  rw [BitVec.xor_assoc, BitVec.xor_self, BitVec.xor_zero]

theorem foldl_transformRound_reverse (F : Word → Word) (x : Window) (rs : List Word) :
    rs.reverse.foldl (transformRound F) (rs.foldl (transformRound F) x).reverse = x.reverse := by
  induction rs generalizing x with
  | nil => rfl
  | cons r rs ih =>
    simp only [List.reverse_cons, List.foldl_append, List.foldl_cons, List.foldl_nil, ih,
      transformRound_reverse_transformRound]

theorem reversedWords_reverse_block (block : Vector Word 4) :
    reversedWords (Window.reverse ⟨block[0], block[1], block[2], block[3]⟩) = block := by
  ext i hi
  match i, hi with
  | 0, _ | 1, _ | 2, _ | 3, _ => rfl

theorem transformFn_reverse_transformFn (F : Word → Word) (block : Vector Word 4) (rs : List Word) :
    transformFn F (transformFn F block rs) rs.reverse = block := by
  calc transformFn F (transformFn F block rs) rs.reverse
    _ = reversedWords (rs.reverse.foldl (transformRound F)
          (rs.foldl (transformRound F) ⟨block[0], block[1], block[2], block[3]⟩).reverse) := rfl
    _ = block := by rw [foldl_transformRound_reverse, reversedWords_reverse_block]

/-! ### The round keys in their order of use (R183) -/

theorem roundKeys_forward (rk : Vector Word 32) : roundKeys false rk = List.ofFn fun i : Fin 32 => rk[i] := by
  apply List.ext_getElem
  · rw [roundKeys, List.length_ofFn]
    exact rk.length_toList
  · intro i _ _
    rw [List.getElem_ofFn]
    exact Vector.getElem_toList _

theorem roundKeys_reversed (rk : Vector Word 32) :
    roundKeys true rk = List.ofFn fun i : Fin 32 => rk[31 - i.val] := by
  have hlen : rk.toList.length = 32 := rk.length_toList
  apply List.ext_getElem
  · rw [roundKeys, if_pos rfl, List.length_reverse, List.length_ofFn, hlen]
  · intro i _ _
    rw [List.getElem_ofFn]
    simp [roundKeys]

/-- Under the invariant of R52 the transform uses T, whether the table was valid or is built now. -/
theorem transformResult_ensureTable {s : State} (h : s.tableOk) (rev : Bool) :
    transformResult rev s.ensureTable = transformFn roundT s.din (roundKeys rev s.rk) := by
  have hF : lookupF s.ensureTable.tbl = roundT := by
    rw [s.ensureTable_tbl_of_valid h]
    exact funext lookupF_combinedTable
  rw [transformResult, hF]
  rfl

end Sys2Proof.Machine
end

section
/-! CERTIFICATES. XFORM and XFORM.REV (41_cipher.md R183, R184). -/

namespace Sys2Proof.Machine

/-- Settles O26: the one check is BLKLEN's, and the lookup of a table that meets R52 is T. -/
theorem xformTransformsTheBlock : Obligations.XformTransformsTheBlock := by
  unfold Obligations.XformTransformsTheBlock
  refine fun s htable => ⟨fun hlen => ⟨?_, ?_⟩, fun hlen => ⟨?_, ?_⟩⟩
  · rw [exec_of_check_passes (i := .xform) rfl (if_pos hlen), commandWrites, transformResult_ensureTable htable,
      roundKeys_forward, ← s.ensureTable_tbl_of_valid htable]
    rfl
  · rw [exec_of_check_passes (i := .xformRev) rfl (if_pos hlen), commandWrites, transformResult_ensureTable htable,
      roundKeys_reversed, ← s.ensureTable_tbl_of_valid htable]
    rfl
  · exact exec_of_check_fails rfl (if_neg hlen) nofun
  · exact exec_of_check_fails rfl (if_neg hlen) nofun

/-- Settles O27: a round is undone by itself on the window read backwards, and XFORM.REV runs the same rounds backwards with
the same table store. -/
theorem reversedRoundKeysDecrypt : Obligations.ReversedRoundKeysDecrypt := by
  unfold Obligations.ReversedRoundKeysDecrypt
  refine ⟨transformFn_reverse_transformFn, fun s hlen => ?_⟩
  refine ⟨_, _, exec_of_check_passes (i := .xform) rfl (if_pos hlen),
    exec_of_check_passes (i := .xformRev) rfl (if_pos hlen), rfl, rfl, ?_⟩
  exact transformFn_reverse_transformFn (lookupF s.ensureTable.tbl) s.din s.rk.toList

end Sys2Proof.Machine
end

section
/-! SUPPORT. The message, its chunks as words, and the states chained through them (42_hash.md R214, R218; 43_orchestrator.md
R250 to R253). -/

namespace Sys2Proof.Machine

/-- Word j of a byte string is its bytes 4j .. 4j+3 (00_scope.md R14). -/
theorem getD_wordsOfBytes {bs : List Byte} {j : Nat} (h : 4 * j + 3 < bs.length) :
    (wordsOfBytes bs).getD j 0 =
      be32 (bs.getD (4 * j) 0) (bs.getD (4 * j + 1) 0) (bs.getD (4 * j + 2) 0) (bs.getD (4 * j + 3) 0) := by
  induction j generalizing bs with
  | zero =>
    match bs, h with
    | _ :: _ :: _ :: _ :: _, _ => rfl
  | succ j ih =>
    match bs, h with
    | b0 :: b1 :: b2 :: b3 :: rest, h =>
      have hrest : 4 * j + 3 < rest.length := by
        simp only [List.length_cons] at h
        omega
      rw [wordsOfBytes, List.getD_cons_succ, ih hrest]
      rfl

theorem getElem_chunkWords (M : List Byte) (n : Nat) (j : Fin 16) :
    let c := chunk M n
    (chunkWords M n)[j] =
      be32 (c.getD (4 * j) 0) (c.getD (4 * j + 1) 0) (c.getD (4 * j + 2) 0) (c.getD (4 * j + 3) 0) := by
  have hj : 4 * j.val + 3 < (chunk M n).length := by
    rw [length_chunk]
    omega
  exact (getElem_wordFile 16 _ j j.isLt).trans (getD_wordsOfBytes hj)

theorem compressBlocks_succ (M : List Byte) (v : Vector Word 8) (n : Nat) :
    compressBlocks M v (n + 1) = compressFn (compressBlocks M v n) (chunkWords M n) := by
  rw [compressBlocks, List.range_succ, List.foldl_concat, ← compressBlocks]

@[simp] theorem State.length_message (s : State) : s.message.length = s.msglen.toNat := by
  rw [State.message, State.memRead, List.length_map, List.length_range]

/-- The message is its bytes below MSGLEN (30_encoding.md R126). -/
theorem State.message_congr {s s' : State} (hlen : s.msglen = s'.msglen)
    (h : ∀ a < s.msglen.toNat, s.msgByte a = s'.msgByte a) : s.message = s'.message := by
  rw [State.message, State.message, ← hlen]
  refine List.map_congr_left fun a ha => ?_
  rw [Nat.zero_add]
  exact h a (List.mem_range.mp ha)

/-! ### The checks of HCHUNK and HDIGEST -/

theorem commandCheck_hchunk_passes {s : State} (hfits : s.msglen.toNat ≤ s.params.msgBytes)
    (hchunk : s.chunkidx.toNat < blockCount s.msglen.toNat) : commandCheck .hchunk s = .none := by
  rw [commandCheck, if_neg (Nat.not_lt.mpr hfits), if_neg (Nat.not_le.mpr hchunk)]

theorem commandCheck_hdigest_passes {s : State} (hfits : s.msglen.toNat ≤ s.params.msgBytes) :
    commandCheck .hdigest s = .none :=
  if_neg (Nat.not_lt.mpr hfits)

/-! ### The host's threading (R253) -/

theorem execAll_cons_of_next {i : Instr} {s t : State} (h : exec i s = .next t) (rest : List Instr) :
    execAll (i :: rest) s = execAll rest t := by
  rw [execAll, h]

theorem execAll_append_of_next {front : List Instr} {s t : State} (h : execAll front s = .next t) (rest : List Instr) :
    execAll (front ++ rest) s = execAll rest t := by
  induction front generalizing s with
  | nil =>
    cases h
    rfl
  | cons i front ih =>
    cases hi : exec i s with
    | next u =>
      rw [execAll_cons_of_next hi] at h
      rw [List.cons_append, execAll_cons_of_next hi, ih h]
    | fault e => simp [execAll, hi] at h
    | refused e => simp [execAll, hi] at h

/-- A command written to CMD at BUSY = 0 is accepted and runs to its completion. -/
theorem execAll_runCommand {s t : State} (hidle : s.busy = false) {word : Word} {i : Instr}
    (h : exec i (s.accept word) = .next t) : execAll (runCommand word i) s = .next t := by
  rw [runCommand, execAll_cons_of_next (exec_wr32_cmd_of_idle s word hidle), execAll_cons_of_next h, execAll]

/-- The host's instructions for block n (R253). -/
def threadBlock (n : Nat) : List Instr :=
  .wr32 0x01C (BitVec.ofNat 32 n) :: (runCommand 0x00000006 .hchunk ++ runCommand 0x00000005 .hcomp)

theorem hostThreading_eq (count : Nat) :
    hostThreading count = runCommand 0x00000004 .hinit ++ (List.range count).flatMap threadBlock := rfl

/-- `t` is what the host's sequence leaves of `s` after n blocks: idle without an error, the message as it was, and STATE
chained through the blocks so far. -/
structure State.Threaded (s : State) (n : Nat) (t : State) : Prop where
  idle : t.busy = false
  errcode : t.errcode = .none
  params : t.params = s.params
  msglen : t.msglen = s.msglen
  message : t.message = s.message
  hstate : t.hstate = compressBlocks s.message initialVector n

theorem exists_threaded_hinit {s : State} (hidle : s.busy = false) :
    ∃ t, execAll (runCommand 0x00000004 .hinit) s = .next t ∧ s.Threaded 0 t :=
  ⟨_, execAll_runCommand hidle (exec_of_check_passes rfl rfl), rfl, rfl, rfl, rfl, rfl, rfl⟩

/-- A block index of any message that MSGLEN can describe fits CHUNKIDX. -/
theorem toNat_ofNat_of_lt_blockCount {msglen : Word} {n : Nat} (hn : n < blockCount msglen.toNat) :
    (BitVec.ofNat 32 n).toNat = n := by
  have hle : blockCount msglen.toNat ≤ 2 ^ 26 + 1 := nblkOf_le msglen
  rw [BitVec.toNat_ofNat, Nat.mod_eq_of_lt (by omega)]

/-- The state in which `wr CHUNKIDX, n` and HCHUNK leave `t`. -/
def State.afterChunk (t : State) (n : Nat) : State :=
  (commandWrites .hchunk ({ t with chunkidx := BitVec.ofNat 32 n }.accept 0x00000006)).commit

theorem execAll_chunk {t : State} {n : Nat} (hidle : t.busy = false) (hfits : t.msglen.toNat ≤ t.params.msgBytes)
    (hn : n < blockCount t.msglen.toNat) :
    execAll (.wr32 0x01C (BitVec.ofNat 32 n) :: runCommand 0x00000006 .hchunk) t = .next (t.afterChunk n) := by
  have hwrite : exec (.wr32 0x01C (BitVec.ofNat 32 n)) t = .next { t with chunkidx := BitVec.ofNat 32 n } :=
    exec_wr32_register hidle (l := .chunkidx) nofun rfl _
  have hindex := toNat_ofNat_of_lt_blockCount hn
  rw [execAll_cons_of_next hwrite]
  exact execAll_runCommand (s := { t with chunkidx := BitVec.ofNat 32 n }) hidle
    (exec_of_check_passes rfl (commandCheck_hchunk_passes hfits (hindex.trans_lt hn)))

theorem execAll_compress {t : State} (hidle : t.busy = false) (hlen : t.mblen = 64) :
    execAll (runCommand 0x00000005 .hcomp) t = .next (commandWrites .hcomp (t.accept 0x00000005)).commit :=
  execAll_runCommand hidle (exec_of_check_passes rfl (if_pos hlen))

/-- One block: HCHUNK loads chunk n of the same message, and HCOMP compresses it into STATE. -/
theorem State.Threaded.block {s t : State} {n : Nat} (h : s.Threaded n t)
    (hfits : s.msglen.toNat ≤ s.params.msgBytes) (hn : n < blockCount s.msglen.toNat) :
    ∃ u, execAll (threadBlock n) t = .next u ∧ s.Threaded (n + 1) u := by
  have hindex := toNat_ofNat_of_lt_blockCount hn
  rw [← h.msglen] at hfits hn
  rw [← h.params] at hfits
  refine ⟨_, (execAll_append_of_next (execAll_chunk h.idle hfits hn) _).trans (execAll_compress rfl rfl), rfl, rfl,
    h.params, h.msglen, h.message, ?_⟩
  change compressFn t.hstate (chunkWords t.message (BitVec.ofNat 32 n).toNat) = _
  rw [h.hstate, h.message, hindex, compressBlocks_succ]

theorem exists_threaded {s : State} (hidle : s.busy = false) (hfits : s.msglen.toNat ≤ s.params.msgBytes) {n : Nat}
    (hn : n ≤ blockCount s.msglen.toNat) : ∃ t, execAll (hostThreading n) s = .next t ∧ s.Threaded n t := by
  induction n with
  | zero =>
    obtain ⟨t, ht, hthreaded⟩ := exists_threaded_hinit hidle
    exact ⟨t, by rw [hostThreading_eq, execAll_append_of_next ht]; rfl, hthreaded⟩
  | succ n ih =>
    obtain ⟨t, ht, hthreaded⟩ := ih (Nat.le_of_succ_le hn)
    obtain ⟨u, hu, hnext⟩ := hthreaded.block hfits hn
    refine ⟨u, ?_, hnext⟩
    rw [hostThreading_eq, List.range_succ, List.flatMap_append, List.flatMap_singleton, ← List.append_assoc,
      ← hostThreading_eq, execAll_append_of_next ht, hu]

end Sys2Proof.Machine
end

section
/-! CERTIFICATES. The padded message, HCHUNK, HDIGEST and the host's threading (42_hash.md R211, R212, R215, R217, R218;
43_orchestrator.md R250, R251, R253). -/

namespace Sys2Proof.Machine

/-- Settles O28: z is the model's count of zeros, which fills whole blocks. -/
theorem paddedLengthIsWholeBlocks : Obligations.PaddedLengthIsWholeBlocks := by
  unfold Obligations.PaddedLengthIsWholeBlocks
  intro M
  have hfill := add_padZeros_eq_blockCount M.length
  exact ⟨padZeros M.length, padZeros_lt _, padZeros_mod _, by rw [length_padFn]; omega, length_padFn M⟩

/-- Settles O30: each case of PadByte is one part of the padded message, by `getElem?_padFn`. -/
theorem padByteIsTheByteOfThePaddedMessage : Obligations.PadByteIsTheByteOfThePaddedMessage := by
  unfold Obligations.PadByteIsTheByteOfThePaddedMessage
  exact fun _ _ => getElem?_padFn

/-- Settles O33: MSGLEN is checked before CHUNKIDX, and a word of MB is four successive bytes of the chunk. -/
theorem hchunkLoadsTheChunk : Obligations.HchunkLoadsTheChunk := by
  unfold Obligations.HchunkLoadsTheChunk
  refine fun s => ⟨fun hfits hchunk => ⟨_, exec_of_check_passes rfl (commandCheck_hchunk_passes hfits hchunk), rfl,
    getElem_chunkWords s.message s.chunkidx.toNat⟩, fun hlong => ?_, fun hfits hrange => ?_⟩
  · exact exec_of_check_fails rfl (if_pos hlong) nofun
  · exact exec_of_check_fails (i := .hchunk) rfl ((if_neg (Nat.not_lt.mpr hfits)).trans (if_pos hrange)) nofun

/-- Settles O38: the chain is the states after n blocks, and the last of them is the digest's. -/
theorem hdigestChainsEveryBlock : Obligations.HdigestChainsEveryBlock := by
  unfold Obligations.HdigestChainsEveryBlock
  refine fun s => ⟨fun hfits => ⟨compressBlocks s.message initialVector, rfl,
    fun n _ => compressBlocks_succ s.message initialVector n, ?_⟩, fun hlong => ?_⟩
  · rw [exec_of_check_passes rfl (commandCheck_hdigest_passes hfits), commandWrites, digestState, State.length_message]
    rfl
  · exact exec_of_check_fails rfl (if_pos hlong) nofun

/-- Settles O39: the host's sequence keeps the message and chains STATE through the same blocks as HDIGEST. -/
theorem hostThreadingEqualsHdigest : Obligations.HostThreadingEqualsHdigest := by
  unfold Obligations.HostThreadingEqualsHdigest
  intro s hidle hfits
  obtain ⟨t, ht, hthreaded⟩ := exists_threaded hidle hfits le_rfl
  refine ⟨t, _, ht, exec_of_check_passes rfl (commandCheck_hdigest_passes hfits), hthreaded.errcode, rfl, ?_⟩
  rw [hthreaded.hstate, ← s.length_message]
  rfl

/-- Settles O40: the digest and the chunk are functions of the message, which is its bytes below MSGLEN. -/
theorem digestDependsOnlyOnTheMessage : Obligations.DigestDependsOnlyOnTheMessage := by
  unfold Obligations.DigestDependsOnlyOnTheMessage
  intro s s' hcap hlen hfits hbytes
  have hmessage : s.message = s'.message := State.message_congr hlen hbytes
  have hfits' : s'.msglen.toNat ≤ s'.params.msgBytes := hlen ▸ hcap ▸ hfits
  refine ⟨⟨_, _, exec_of_check_passes rfl (commandCheck_hdigest_passes hfits),
    exec_of_check_passes rfl (commandCheck_hdigest_passes hfits'), congrArg digestState hmessage⟩, fun hidx hchunk => ?_⟩
  have hchunk' : s'.chunkidx.toNat < blockCount s'.msglen.toNat := hidx ▸ hlen ▸ hchunk
  refine ⟨_, _, exec_of_check_passes rfl (commandCheck_hchunk_passes hfits hchunk),
    exec_of_check_passes rfl (commandCheck_hchunk_passes hfits' hchunk'), ?_⟩
  exact congrArg₂ chunkWords hmessage (congrArg BitVec.toNat hidx)

end Sys2Proof.Machine
end
